-- ==== Sys2Proof/Word.lean ====
section
/-! DEFINITION. The word types of the sensor protocol controller: bytes of the two-wire bus, the two 20-bit
raw fields, and binary32 patterns (spec 00_scope.md rules R9 and R10). Bit 0 is the least significant bit. -/

namespace Sys2Proof

/-- One byte on the bus, in the frame buffer or in a telemetry line. -/
abbrev Byte := BitVec 8

/-- A raw field of the frame: unsigned, 20 bits (R10, R26). -/
abbrev Raw20 := BitVec 20

/-- A binary32 value as its 32-bit pattern: sign bit 31, exponent bits 30 to 23, fraction bits 22 to 0 (R10). -/
abbrev B32 := BitVec 32

end Sys2Proof
end

