-- ==== Sys2Proof/Config.lean ====
section
/-! DEFINITION. What a build of this design chooses: the parameters of rules R8 and R33, as a record, and the free
values, opaque constants with no body, that stand wherever the spec says a value is drawn, is not given or is left to
the build. The wire constants that rule R8 calls fixed stand in Decode.lean, the built configuration in
Machine/Build.lean. -/

namespace Sys2Proof

/-! ## What the bus answers and the frame it fills -/

/-- One answer of the bus transport (R60, R61, R76): a transaction fails, or succeeds with bytes. A write's
success carries no information, so its bytes are not looked at; a read's success carries what the device sent. -/
inductive BusAnswer where
  | fail
  | ok (bytes : List Byte)
  deriving DecidableEq, Repr, Inhabited

/-- The frame buffer FRAME[0..5] (R25, R37): `b0` is FRAME[0], the status byte that comes with the payload. -/
structure Frame where
  b0 : Byte
  b1 : Byte
  b2 : Byte
  b3 : Byte
  b4 : Byte
  b5 : Byte
  deriving DecidableEq, Repr, Inhabited

/-! ## Parameters of a build (R8, R33) -/

/-- CONV_MODE: how the temperature is rounded (R184, R186; decision D15). -/
inductive ConvMode where
  | single
  | stepwise
  deriving DecidableEq, Repr, Inhabited

/-- The parameters of rule R8 that are no registers (R33): constant, changed by no operation and by no reset.
The three thresholds are registers of rule R20 and stand in State. -/
structure Config where
  pollMax  : Nat
  tReset   : Nat
  tInit    : Nat
  tConv    : Nat
  tPoll    : Nat
  tsBits   : Nat
  convMode : ConvMode
  sPre     : List Byte
  sMid1    : List Byte
  sMid2    : List Byte
  sPost    : List Byte
  hPre     : List Byte
  hMid1    : List Byte
  hMid2    : List Byte
  hPost    : List Byte
  humanDp  : Nat
  deriving DecidableEq, Repr, Inhabited

/-! ## Free values: no body, so nothing can evaluate them (logs 1, 2, 3, 4) -/

/-- POLL_MAX of the build; the spec gives no value and no default (D7). -/
opaque Config.builtPollMax : Nat
/-- How far T_RESET of the build lies above its minimum of 20 ms (D14). -/
opaque Config.builtResetSlack : Nat
/-- How far T_INIT of the build lies above its minimum of 10 ms (D14). -/
opaque Config.builtInitSlack : Nat
/-- How far T_CONV of the build lies above its minimum of 80 ms (D14). -/
opaque Config.builtConvSlack : Nat
/-- How far T_POLL of the build lies above its minimum of 10 ms (D14). -/
opaque Config.builtPollSlack : Nat
/-- TH_LOW of the build (R31, D16: configuration, no default). -/
opaque Config.builtThLow : B32
/-- TH_HIGH of the build (R31, D16: configuration, no default). -/
opaque Config.builtThHigh : B32
/-- TH_HUM of the build (R31, D16: configuration, no default). -/
opaque Config.builtThHum : B32

/-- STATUS while it has no value (R20, R42; U17 "any value ... Not zero"). -/
opaque Config.freeStatus : Nat → Byte
/-- FRAME while it has no value: after reset, and again after the READ that wrote it (R25, R42, U17). -/
opaque Config.freeFrame : Nat → Frame
/-- RAW_H while it has no value (R42, U17). -/
opaque Config.freeRawH : Nat → Raw20
/-- RAW_T while it has no value (R42, U17). -/
opaque Config.freeRawT : Nat → Raw20
/-- TEMP while it has no value (R42, U17). -/
opaque Config.freeTemp : Nat → B32
/-- HUM while it has no value (R42, U17). -/
opaque Config.freeHum : Nat → B32

/-- A draw of the bus oracle (R76): `none` is "the transport has not returned yet" (R268). -/
opaque Config.freeAnswer : Nat → Option BusAnswer
/-- A draw of the arbiter: is BUS_GNT 1 now (R72)? -/
opaque Config.freeGrant : Nat → Bool
/-- A draw of the timer: has the running delay elapsed by now (R262)? -/
opaque Config.freeTimer : Nat → Bool

end Sys2Proof
end

