-- ==== Sys2Proof/Syntax.lean ====
section
/-! DEFINITION. The operations of the block (rule R3): one constructor for each of the ten rows of
spec/opcode_table.json, and the forms in which their words come (rules R90 to R96). -/

namespace Sys2Proof

/-- The ten operations of rule R3. Only ENCODE has an operand on a port, the timestamp TS (R91, R216); every other
operand is a register or an answer of the bus. -/
inductive Instr where
  | init
  | read
  | classify
  | encode (ts : Nat)
  | softReset
  | initCfg
  | trigger
  | statusRead
  | frameRead
  | decode
  deriving DecidableEq, Repr, Inhabited

/-- A presentation on the host port, format HOST (R90, R91): the 8-bit operation code and the operand lines, read
modulo 2^TS_BITS and looked at by ENCODE only. -/
structure HostWord where
  code    : Byte
  operand : Nat
  deriving DecidableEq, Repr, Inhabited

/-- A word that stands for an operation, by the place it stands at (R90, R100): a presentation of the host (HOST), a
command the block sends (W1, W3), an answer the bus gives to a read (R1, R6), the frame the block holds (R6). -/
inductive OpWord where
  | host    (w : HostWord)
  | command (bytes : List Byte)
  | answer  (bytes : List Byte)
  | stored  (bytes : List Byte)
  deriving DecidableEq, Repr, Inhabited

end Sys2Proof
end

