-- ==== Sys2Proof/WellFormed.lean ====
section
/-! DEFINITION. What the spec asks of an operation's operand and of a configuration, as Bool checks: the width of TS
(R39, R91), and the configuration requirements of rules R8, R218, R219, R221, R229 and R294 that can be read off a Config. -/

namespace Sys2Proof

/-- TS is an unsigned integer of TS_BITS bits (R39); no other operation has an operand. -/
def Instr.wf (tsBits : Nat) : Instr → Bool
  | .encode ts => decide (ts < 2 ^ tsBits)
  | .init | .read | .classify | .softReset | .initCfg | .trigger | .statusRead | .frameRead | .decode => true

/-- A template segment contains neither CR nor LF (R229). -/
def segmentOk (bytes : List Byte) : Bool :=
  bytes.all fun b => b != 0x0D#8 && b != 0x0A#8

/-- A template segment is 7-bit ASCII text (R218). -/
def segmentAscii (bytes : List Byte) : Bool :=
  bytes.all fun b => decide (b.toNat < 0x80)

/-- `key` stands somewhere in `bytes`. -/
def hasKey (key bytes : List Byte) : Bool :=
  bytes.tails.any fun t => key.isPrefixOf t

/-- The key of the first field, `temperature` (R221). -/
def keyTemperature : List Byte :=
  [0x74#8, 0x65#8, 0x6D#8, 0x70#8, 0x65#8, 0x72#8, 0x61#8, 0x74#8, 0x75#8, 0x72#8, 0x65#8]

/-- The key of the second field, `humidity` (R221). -/
def keyHumidity : List Byte :=
  [0x68#8, 0x75#8, 0x6D#8, 0x69#8, 0x64#8, 0x69#8, 0x74#8, 0x79#8]

/-- The key of the third field, `timestamp` (R221). -/
def keyTimestamp : List Byte :=
  [0x74#8, 0x69#8, 0x6D#8, 0x65#8, 0x73#8, 0x74#8, 0x61#8, 0x6D#8, 0x70#8]

/-- The four delays are at least their minima (R8, R71, R294). -/
def Config.delaysOk (c : Config) : Bool :=
  decide (20 ≤ c.tReset) && decide (10 ≤ c.tInit) && decide (80 ≤ c.tConv) && decide (10 ≤ c.tPoll)

/-- All eight template segments keep rule R229. -/
def Config.templatesOk (c : Config) : Bool :=
  segmentOk c.sPre && segmentOk c.sMid1 && segmentOk c.sMid2 && segmentOk c.sPost &&
  segmentOk c.hPre && segmentOk c.hMid1 && segmentOk c.hMid2 && segmentOk c.hPost

/-- All eight template segments keep rule R218. -/
def Config.asciiOk (c : Config) : Bool :=
  segmentAscii c.sPre && segmentAscii c.sMid1 && segmentAscii c.sMid2 && segmentAscii c.sPost &&
  segmentAscii c.hPre && segmentAscii c.hMid1 && segmentAscii c.hMid2 && segmentAscii c.hPost

/-- The structured template has its three keys, in the order of rule R221. A key is asked for in the segment right before
its value (DESIGN CHOICE, log 25). -/
def Config.keysOk (c : Config) : Bool :=
  hasKey keyTemperature c.sPre && hasKey keyHumidity c.sMid1 && hasKey keyTimestamp c.sMid2

/-- A configuration the spec admits: delays, templates (R218, R221, R229), and a number of decimals that `dec` is given
for (R219). -/
def Config.wf (c : Config) : Bool :=
  c.delaysOk && c.templatesOk && c.asciiOk && c.keysOk && decide (c.humanDp ≤ 2)

end Sys2Proof
end

