-- ==== Sys2Proof/Decode.lean ====
section
/-! DEFINITION. Reading an operation from its word, and writing the word of an operation (rules R90 to R96, R100,
R108; spec/opcode_table.json). The host port is the only place where the block itself reads a code; a command, an
answer or a stored frame is selected by PHASE and never by decoding (R100), so for those the decoder says which row
of the table a given word belongs to. -/

namespace Sys2Proof

/-! ## The fixed constants of the wire (R8, R62) -/

/-- DEV_ADDR, the one device address the block uses, handed to the transport as it is (R69). -/
def devAddr : Byte := 0x38#8

/-- The bytes of SOFT_RESET, format W1 (R93, R150). -/
def softResetBytes : List Byte := [0xBA#8]

/-- The bytes of INIT_CFG, format W3: opcode, then the two parameter bytes (R94, R151). -/
def initCfgBytes : List Byte := [0xE1#8, 0x08#8, 0x00#8]

/-- The bytes of TRIGGER, format W3: opcode, then the two parameter bytes (R94, R152). -/
def triggerBytes : List Byte := [0xAC#8, 0x33#8, 0x00#8]

/-- The bytes a STATUS_READ asks for (R153). -/
def statusLen : Nat := 1

/-- FRAME_LEN, the bytes a FRAME_READ asks for (R8, R154). -/
def frameLen : Nat := 6

/-! ## Words -/

/-- Why a word stands for no operation. -/
inductive DecodeError where
  /-- A host code other than 0x01 to 0x04 (R108). -/
  | unknownHostCode (code : Byte)
  /-- A byte string that is none of the three commands (R100, R109). -/
  | notACommand
  /-- An answer or a stored frame of a length no read has (R62, R68). -/
  | wrongLength (n : Nat)
  deriving DecidableEq, Repr

/-- The operation a word stands for; total, and every other word is rejected by name. `tsBits` is TS_BITS. -/
def decode (tsBits : Nat) : OpWord → Except DecodeError Instr
  | .host w =>
    if w.code = 0x01#8 then .ok .init
    else if w.code = 0x02#8 then .ok .read
    else if w.code = 0x03#8 then .ok .classify
    else if w.code = 0x04#8 then .ok (.encode (w.operand % 2 ^ tsBits))
    else .error (.unknownHostCode w.code)
  | .command bytes =>
    if bytes = softResetBytes then .ok .softReset
    else if bytes = initCfgBytes then .ok .initCfg
    else if bytes = triggerBytes then .ok .trigger
    else .error .notACommand
  | .answer bytes =>
    if bytes.length = statusLen then .ok .statusRead
    else if bytes.length = frameLen then .ok .frameRead
    else .error (.wrongLength bytes.length)
  | .stored bytes =>
    if bytes.length = frameLen then .ok .decode else .error (.wrongLength bytes.length)

/-- The word of an operation. The rows STATUS_READ, FRAME_READ and DECODE have no fixed bit; their word here is the
table's `match` value, all zeros (log 5). -/
def encode : Instr → OpWord
  | .init       => .host ⟨0x01#8, 0⟩
  | .read       => .host ⟨0x02#8, 0⟩
  | .classify   => .host ⟨0x03#8, 0⟩
  | .encode ts  => .host ⟨0x04#8, ts⟩
  | .softReset  => .command softResetBytes
  | .initCfg    => .command initCfgBytes
  | .trigger    => .command triggerBytes
  | .statusRead => .answer [0x00#8]
  | .frameRead  => .answer [0x00#8, 0x00#8, 0x00#8, 0x00#8, 0x00#8, 0x00#8]
  | .decode     => .stored [0x00#8, 0x00#8, 0x00#8, 0x00#8, 0x00#8, 0x00#8]

/-! ## The numbering of spec/opcode_table.json

A row is ONE word, its pattern's leftmost bit the most significant, so byte 0 of a command is the word's top byte
(INIT_CFG is 0xE10800) and the code of ENCODE stands above its 32-bit operand (0x04tttttttt). -/

/-- The `n` bytes of the number `w`, most significant byte first. -/
def bytesOf : Nat → Nat → List Byte
  | 0, _ => []
  | n + 1, w => bytesOf n (w / 256) ++ [BitVec.ofNat 8 w]

/-- The number that a byte string, most significant byte first, stands for. -/
def numberOf (bytes : List Byte) : Nat :=
  bytes.foldl (fun acc b => 256 * acc + b.toNat) 0

/-- TS_BITS in the table's pattern of ENCODE ("TS_BITS = 32 shown"; D19). -/
def tableTsBits : Nat := 32

/-- What `nbits` bits of the table's numbering can stand for, the rows with fixed bits first. ENCODE is the table's one
row of 40 bits and no row of 8, so (DESIGN CHOICE, log 5) its bare code 0x04 is no host word here but an answer, and 40
bits under another code are nothing. -/
def OpWord.ofTable (nbits w : Nat) : List OpWord :=
  if w < 2 ^ nbits then
    if nbits = 8 then
      (if w = 0x04 then [] else [.host ⟨BitVec.ofNat 8 w, 0⟩]) ++ [.command (bytesOf 1 w), .answer (bytesOf 1 w)]
    else if nbits = 24 then [.command (bytesOf 3 w)]
    else if nbits = 40 then
      if w / 2 ^ 32 = 0x04 then [.host ⟨0x04#8, w % 2 ^ 32⟩] else []
    else if nbits = 48 then [.answer (bytesOf 6 w), .stored (bytesOf 6 w)]
    else []
  else []

/-- How many bits the table gives the word's row, and the word as a number in the table's numbering. -/
def OpWord.toTable : OpWord → Nat × Nat
  | .host w =>
    if w.code = 0x04#8 then (40, w.code.toNat * 2 ^ 32 + w.operand % 2 ^ 32) else (8, w.code.toNat)
  | .command bytes | .answer bytes | .stored bytes => (8 * bytes.length, numberOf bytes)

/-- The first of the words that decodes, and its operation. -/
def firstOp (tsBits : Nat) : List OpWord → Option (OpWord × Instr)
  | [] => none
  | w :: rest =>
    match decode tsBits w with
    | .ok i => some (w, i)
    | .error _ => firstOp tsBits rest

/-- The operation the decoder reads from an operation's bits as spec/opcode_table.json numbers them. A row of eight
bits that is no 8-bit code and no command is an answer to STATUS_READ (the row has no fixed bit); 48 bits are an answer to
FRAME_READ, whose row DECODE's pattern repeats bit for bit (log 5). -/
def decodeTableWord (nbits w : Nat) : Option Instr :=
  (firstOp tableTsBits (OpWord.ofTable nbits w)).map Prod.snd

end Sys2Proof
end

