-- ==== Sys2Proof/Machine/Build.lean ====
section
/-! DEFINITION. The configuration that the block comes up with (rules R8, R33, R222, R224): the defaults the spec gives,
and free values for what it leaves to the build. -/

namespace Sys2Proof

/-- The configuration of the built block: the spec's defaults where rule R8 gives one (TS_BITS 32, CONV_MODE
`single`, HUMAN_DP 0, the templates of rules R222 and R224), free values within the stated bound elsewhere. -/
def Config.built : Config where
  pollMax  := Config.builtPollMax
  tReset   := 20 + Config.builtResetSlack
  tInit    := 10 + Config.builtInitSlack
  tConv    := 80 + Config.builtConvSlack
  tPoll    := 10 + Config.builtPollSlack
  tsBits   := 32
  convMode := .single
  -- left brace, "temperature":
  sPre  := [0x7B#8, 0x22#8, 0x74#8, 0x65#8, 0x6D#8, 0x70#8, 0x65#8, 0x72#8, 0x61#8, 0x74#8, 0x75#8, 0x72#8,
            0x65#8, 0x22#8, 0x3A#8]
  -- ,"humidity":
  sMid1 := [0x2C#8, 0x22#8, 0x68#8, 0x75#8, 0x6D#8, 0x69#8, 0x64#8, 0x69#8, 0x74#8, 0x79#8, 0x22#8, 0x3A#8]
  -- ,"timestamp":
  sMid2 := [0x2C#8, 0x22#8, 0x74#8, 0x69#8, 0x6D#8, 0x65#8, 0x73#8, 0x74#8, 0x61#8, 0x6D#8, 0x70#8, 0x22#8, 0x3A#8]
  -- right brace
  sPost := [0x7D#8]
  -- Temperature: (and a space)
  hPre  := [0x54#8, 0x65#8, 0x6D#8, 0x70#8, 0x65#8, 0x72#8, 0x61#8, 0x74#8, 0x75#8, 0x72#8, 0x65#8, 0x3A#8, 0x20#8]
  -- (a space) C, Humidity: (and a space)
  hMid1 := [0x20#8, 0x43#8, 0x2C#8, 0x20#8, 0x48#8, 0x75#8, 0x6D#8, 0x69#8, 0x64#8, 0x69#8, 0x74#8, 0x79#8,
            0x3A#8, 0x20#8]
  -- (a space) %, Time: (and a space)
  hMid2 := [0x20#8, 0x25#8, 0x2C#8, 0x20#8, 0x54#8, 0x69#8, 0x6D#8, 0x65#8, 0x3A#8, 0x20#8]
  -- (a space) ms
  hPost := [0x20#8, 0x6D#8, 0x73#8]
  humanDp := 0

end Sys2Proof
end

