-- ==== Sys2Proof/Machine/State.lean ====
section
/-! DEFINITION. The state of the block (rules R20 to R42), with its configuration, its inputs and its outputs, all as
plain data; the reasons a step can stop; and the state after reset. -/

namespace Sys2Proof.Machine

/-! ## The control registers -/

/-- DSTATE, the lifecycle state (R22). -/
inductive DState where
  | uninitialized
  | resetting
  | awaitingCalibration
  | ready
  | measuring
  | faulted
  deriving DecidableEq, Repr, Inhabited

/-- PHASE, the micro-step inside an operation (R23), in the order of its table. -/
inductive Phase where
  | idle
  | iAcq
  | iRstW
  | iRstD
  | iCfgW
  | iCfgD
  | iStR
  | iChk
  | mAcq
  | mTrgW
  | mCnvD
  | mPollR
  | mPollD
  | mFrmR
  | mDec
  deriving DecidableEq, Repr, Inhabited

/-- The result codes of rule R30. ERR holds one of the first four; `notReady` is returned and never stored. -/
inductive ErrKind where
  | none
  | transport
  | calibration
  | timeout
  | notReady
  deriving DecidableEq, Repr, Inhabited

/-! ## What the block gives out -/

/-- The payload of a response (R92): nothing for INIT and for every error, the reading for READ, IND[2:0] for CLASSIFY,
the structured line and the human line, in that order, for ENCODE. -/
inductive Payload where
  | nothing
  | reading (temp hum : B32)
  | indicators (ind : BitVec 3)
  | lines (structured human : List Byte)
  deriving DecidableEq, Repr, Inhabited

/-- Format RESP (R92): a result code and a payload. -/
structure Response where
  code    : ErrKind
  payload : Payload
  deriving DecidableEq, Repr, Inhabited

/-- One event of the trace (R78, R111): the grant given or given up, a delay of at least `ms` milliseconds over, a bus
transaction with its device address and its answer. -/
inductive Event where
  | acq
  | rel
  | delay (ms : Nat)
  | write (addr : Byte) (bytes : List Byte) (ok : Bool)
  | read (addr : Byte) (count : Nat) (answer : BusAnswer)
  deriving DecidableEq, Repr, Inhabited

/-! ## The state -/

/-- Everything the machine is made of. The first fifteen fields are rule R20's list, in its order; the others are the
configuration, the inputs of rule R264's outside agents, and what the model records. -/
structure State where
  /-- R20 row 0: lifecycle state. -/
  dstate  : DState
  /-- R20 row 1: micro-step inside an operation. -/
  phase   : Phase
  /-- R20 row 2: the error that ended the latest accepted INIT or READ, or `none`. -/
  err     : ErrKind
  /-- R20 row 3: the last status byte read. -/
  status  : Byte
  /-- R20 row 4: the raw frame. -/
  frame   : Frame
  /-- R20 row 5: raw humidity field. -/
  rawH    : Raw20
  /-- R20 row 6: raw temperature field. -/
  rawT    : Raw20
  /-- R20 row 7: temperature, binary32. -/
  temp    : B32
  /-- R20 row 8: relative humidity, binary32. -/
  hum     : B32
  /-- R20 row 9: TEMP and HUM hold a reading of the latest READ. -/
  rdValid : Bool
  /-- R20 row 10: retry sleeps performed in the current READ. -/
  pollCnt : Nat
  /-- R20 row 11: the block holds or waits for the bus grant. -/
  busReq  : Bool
  /-- R20 row 12: tempLow, binary32. -/
  thLow   : B32
  /-- R20 row 13: tempHigh, binary32. -/
  thHigh  : B32
  /-- R20 row 14: humidityHigh, binary32. -/
  thHum   : B32
  /-- The parameters of rule R33. -/
  cfg     : Config
  /-- Input: reset is asserted at this step (R290, R292). -/
  rst     : Bool
  /-- Input: what the host presents, one operation at a time, in this order (R130). -/
  hostIn  : List HostWord
  /-- Input: the samples of BUS_GNT to come (R72); after the last one the arbiter answers by free draws. -/
  grantIn : List Bool
  /-- Input: the samples of "the delay is over" to come (R262); after the last one by free draws. -/
  timerIn : List Bool
  /-- Input: the bus answers to come (R76), `none` where the transport has not returned yet (R268); after the last one
  by free draws. -/
  busIn   : List (Option BusAnswer)
  /-- The model's own: how many free values have been drawn. -/
  draws   : Nat
  /-- The model's own record: transactions, delays and grant events since reset, oldest first (R78). -/
  trace   : List Event
  /-- Output: the responses given since reset, oldest first (R92). -/
  resp    : List Response
  deriving DecidableEq, Repr, Inhabited

/-! ## The ways a step can stop -/

/-- The faults of the machine: none. Every failure the spec describes is a typed result after which the block is idle
and goes on (R250), and every wait is a step that stays in its phase (R268), so no step ends in a fault. -/
inductive Fault where
  deriving DecidableEq, Repr

/-- The refusals of the machine. -/
inductive Refusal where
  /-- An instruction without a meaning, by its mnemonic. Raised by no arm of this model. Safe: the model stops. -/
  | notModelled (mnemonic : String)
  /-- ENCODE with a TEMP or HUM that is a NaN or an infinity while RD_VALID = 1. Raised by `execEncode` only; rule R228
  says that a model refuses it, and no run reaches it (R35). Safe: the model stops. -/
  | nonFiniteReading
  deriving DecidableEq, Repr

/-! ## Reset -/

/-- The state after reset (R42, R290), of the block as built. STATUS, FRAME, RAW_H, RAW_T, TEMP and HUM "have no value":
each is a free value (log 2). Thresholds and configuration are "as instantiated" (logs 3 and 4). Nothing is presented
and nothing has been recorded. -/
def State.reset : State where
  dstate  := .uninitialized
  phase   := .idle
  err     := .none
  status  := Config.freeStatus 0
  frame   := Config.freeFrame 0
  rawH    := Config.freeRawH 0
  rawT    := Config.freeRawT 0
  temp    := Config.freeTemp 0
  hum     := Config.freeHum 0
  rdValid := false
  pollCnt := 0
  busReq  := false
  thLow   := Config.builtThLow
  thHigh  := Config.builtThHigh
  thHum   := Config.builtThHum
  cfg     := Config.built
  rst     := false
  hostIn  := []
  grantIn := []
  timerIn := []
  busIn   := []
  draws   := 1
  trace   := []
  resp    := []

end Sys2Proof.Machine
end

