-- ==== Sys2Proof/Machine/Binary32.lean ====
section
/-! DEFINITION. Binary32 (rule R10): the exact value of a pattern, the IEEE comparison, and RN32, the rounding of an
exact dyadic rational to the nearest binary32, ties to the even significand.

Every finite binary32 is a whole number of units 2^-149, so the exact value of a pattern is an integer, `scaled`, and
all comparisons are of integers. An infinity's `scaled` lies beyond every finite one, which orders it as usual. -/

namespace Sys2Proof

/-- Sign bit 31. -/
def B32.sign (v : B32) : Bool := v.msb

/-- The biased exponent, bits 30 to 23. -/
def B32.expo (v : B32) : Nat := v.toNat / 2 ^ 23 % 2 ^ 8

/-- The fraction, bits 22 to 0. -/
def B32.frac (v : B32) : Nat := v.toNat % 2 ^ 23

/-- Neither an infinity nor a NaN. -/
def B32.isFinite (v : B32) : Bool := v.expo != 255

/-- A NaN: all exponent bits set and a fraction that is not zero. -/
def B32.isNaN (v : B32) : Bool := v.expo == 255 && v.frac != 0

/-- The magnitude in units of 2^-149. -/
def B32.mag (v : B32) : Nat :=
  if v.expo = 0 then v.frac else (2 ^ 23 + v.frac) * 2 ^ (v.expo - 1)

/-- The exact value in units of 2^-149. -/
def B32.scaled (v : B32) : Int := if v.sign then -(v.mag : Int) else v.mag

/-- The ordered comparison `a < b`: exact, false when either side is a NaN, and -0 = +0 (R10, R205). -/
def B32.lt (a b : B32) : Bool := !a.isNaN && !b.isNaN && decide (a.scaled < b.scaled)

end Sys2Proof

namespace Sys2Proof.Machine

/-- The integer nearest to `a / b`, a tie going to the even integer (`b` is not 0). -/
def roundHalfEven (a b : Nat) : Nat :=
  if 2 * (a % b) < b then a / b
  else if b < 2 * (a % b) then a / b + 1
  else if a / b % 2 = 0 then a / b
  else a / b + 1

/-- The value 1 in units of 2^-149. -/
def unitsPerOne : Nat := 2 ^ 149

/-- How many low bits of `p / 2^q`, counted in units of 2^-149, lie below a significand of 24 bits. -/
def rnShift (p q : Nat) : Nat := Nat.log2 (p * unitsPerOne / 2 ^ q) - 23

/-- The exponent and fraction bits of RN32 of the magnitude `p / 2^q`: the significand rounded to even once, placed under
its exponent; a carry out of the significand raises the exponent; beyond the largest finite value, infinity. -/
def rn32Mag (p q : Nat) : Nat :=
  min (rnShift p q * 2 ^ 23 + roundHalfEven (p * unitsPerOne) (2 ^ (q + rnShift p q))) 0x7F800000

/-- RN32 of `x / 2^q` (R10). A zero is +0. -/
def rn32 (x : Int) (q : Nat) : B32 :=
  BitVec.ofNat 32 ((if x < 0 then 2 ^ 31 else 0) + rn32Mag x.natAbs q)

end Sys2Proof.Machine
end

