-- ==== Sys2Proof/Machine/Flags.lean ====
section
/-! DEFINITION. The bits that act as flags (rule R28): BUSY and CAL of the status byte (R24, R95), and the three
indicator bits of CLASSIFY (R38, R200). -/

namespace Sys2Proof.Machine

/-- STATUS[7], mask 0x80 (R95). -/
def busyFlag (status : Byte) : Bool := status.getLsbD 7

/-- STATUS[3], mask 0x08 (R95). -/
def calFlag (status : Byte) : Bool := status.getLsbD 3

/-- classify(t, h, lo, hi, hh): IND[0] = t < lo, IND[1] = t > hi, IND[2] = h > hh, all strict (R200, R38). -/
def classify (t h lo hi hh : B32) : BitVec 3 :=
  BitVec.ofBool (B32.lt hh h) ++ BitVec.ofBool (B32.lt hi t) ++ BitVec.ofBool (B32.lt t lo)

end Sys2Proof.Machine
end

