-- ==== Sys2Proof/Machine/Operands.lean ====
section
/-! DEFINITION. The operand forms: the fields of the six-byte frame (rules R66, R96, R99, R182, R183), the frame from the
bytes of an answer (R154), and the binary codes of the control registers (R22, R30). -/

namespace Sys2Proof.Machine

/-- The 3-bit code of a lifecycle state (R22, decision D3). -/
def DState.code : DState → BitVec 3
  | .uninitialized       => 0b000#3
  | .resetting           => 0b001#3
  | .awaitingCalibration => 0b010#3
  | .ready               => 0b011#3
  | .measuring           => 0b100#3
  | .faulted             => 0b111#3

/-- The 3-bit code of a result (R30, R250; decision D5). -/
def ErrKind.code : ErrKind → BitVec 3
  | .none        => 0#3
  | .transport   => 1#3
  | .calibration => 2#3
  | .timeout     => 3#3
  | .notReady    => 4#3

/-- RAW_H = (FRAME[1] << 12) | (FRAME[2] << 4) | (FRAME[3] >> 4), on values wide enough for 20 bits (R182). -/
def rawHumidity (f : Frame) : Raw20 :=
  (f.b1.setWidth 20 <<< 12) ||| (f.b2.setWidth 20 <<< 4) ||| (f.b3.setWidth 20 >>> 4)

/-- RAW_T = ((FRAME[3] & 0x0F) << 16) | (FRAME[4] << 8) | FRAME[5], on values wide enough for 20 bits (R183). -/
def rawTemperature (f : Frame) : Raw20 :=
  ((f.b3 &&& 0x0F#8).setWidth 20 <<< 16) ||| (f.b4.setWidth 20 <<< 8) ||| f.b5.setWidth 20

/-- FRAME[i] is the i-th byte the bus returned (R25, R154). FRAME_READ gives it answers of six bytes only. -/
def frameOfBytes (bytes : List Byte) : Frame :=
  ⟨bytes.getD 0 0, bytes.getD 1 0, bytes.getD 2 0, bytes.getD 3 0, bytes.getD 4 0, bytes.getD 5 0⟩

end Sys2Proof.Machine
end

