-- ==== Sys2Proof/Machine/Ops.lean ====
section
/-! DEFINITION. The named operations over the state that every meaning is written with: the inputs (rules R72, R76,
R262), the primitives BusWrite, BusRead, Acquire, Release, Delay (rules R11, R60, R61, R72), `raise E` and `return OK(v)`
(rules R11, R255, R256), and reset (rules R290, R292). -/

namespace Sys2Proof.Machine

/-! ## Records and responses -/

/-- Append an event to the trace (R78). -/
def State.log (e : Event) (s : State) : State :=
  { s with trace := s.trace ++ [e] }

/-- Give the host a response (R92). -/
def State.respond (code : ErrKind) (payload : Payload) (s : State) : State :=
  { s with resp := s.resp ++ [⟨code, payload⟩] }

/-! ## The inputs -/

/-- The next answer of the bus, and the state without it: the next one listed, else a free draw (R76). -/
def State.busNext (s : State) : Option BusAnswer × State :=
  match s.busIn with
  | a :: rest => (a, { s with busIn := rest })
  | [] => (Config.freeAnswer s.draws, { s with draws := s.draws + 1 })

/-- The next sample of BUS_GNT, and the state without it (R72). -/
def State.grantNext (s : State) : Bool × State :=
  match s.grantIn with
  | g :: rest => (g, { s with grantIn := rest })
  | [] => (Config.freeGrant s.draws, { s with draws := s.draws + 1 })

/-- The next sample of the timer, and the state without it (R262). -/
def State.timerNext (s : State) : Bool × State :=
  match s.timerIn with
  | d :: rest => (d, { s with timerIn := rest })
  | [] => (Config.freeTimer s.draws, { s with draws := s.draws + 1 })

/-! ## The end of an operation -/

/-- Release(): give up the bus grant (R72). -/
def State.release (s : State) : State :=
  State.log .rel { s with busReq := false }

/-- Where an error leaves the lifecycle: a timeout in Ready, every other one in Faulted (R255, R256). -/
def ErrKind.stateAfter : ErrKind → DState
  | .timeout => .ready
  | .none | .transport | .calibration | .notReady => .faulted

/-- `raise E`, the one error entry: ERR, DSTATE, Release(), PHASE, and E is returned; nothing else is written (R255,
R256). -/
def State.raise (e : ErrKind) (s : State) : State :=
  (State.release { s with err := e, dstate := e.stateAfter, phase := .idle }).respond e .nothing

/-- The end of a successful INIT or READ: DSTATE <- Ready, Release(), PHASE <- IDLE, return OK(v) (R131, R140, R148). -/
def State.finish (payload : Payload) (s : State) : State :=
  (State.release { s with dstate := .ready, phase := .idle }).respond .none payload

/-- `return NotReadyError`: the response and nothing else (R254). -/
def State.notReady (s : State) : State :=
  s.respond .notReady .nothing

/-! ## The primitives -/

/-- A step that belongs to one phase. The block selects its steps by PHASE (R100): in another phase this one is not
taken, and nothing happens (log 6). -/
def State.inPhase (p : Phase) (f : State → State) (s : State) : State :=
  if s.phase = p then f s else s

/-- Acquire(): BUS_REQ <- 1, and wait until the arbiter gives the grant; then go to phase `next` (R72, R73). -/
def State.acquire (next : Phase) (s : State) : State :=
  match State.grantNext { s with busReq := true } with
  | (true, t)  => { t.log .acq with phase := next }
  | (false, t) => t

/-- Delay(ms), then `f`; while the timer says the time has not passed, wait (R262). -/
def State.delay (ms : Nat) (f : State → State) (s : State) : State :=
  match s.timerNext with
  | (true, t)  => f (t.log (.delay ms))
  | (false, t) => t

/-- BusWrite(0x38, bytes), then `f`; `fail` raises TransportError (R60, R251). While the transport has not returned, wait
(R268). -/
def State.busWrite (bytes : List Byte) (f : State → State) (s : State) : State :=
  match s.busNext with
  | (some (.ok _), t) => f (t.log (.write devAddr bytes true))
  | (some .fail, t)   => (t.log (.write devAddr bytes false)).raise .transport
  | (none, t)         => t

/-- BusRead(0x38, count), then `f` on the bytes; `fail`, and an answer of another number of bytes, raise TransportError
(R61, R251). While the transport has not returned, wait (R268). -/
def State.busRead (count : Nat) (f : List Byte → State → State) (s : State) : State :=
  match s.busNext with
  | (some (.ok bytes), t) =>
    if bytes.length = count then f bytes (t.log (.read devAddr count (.ok bytes)))
    else (t.log (.read devAddr count (.ok bytes))).raise .transport
  | (some .fail, t)   => (t.log (.read devAddr count .fail)).raise .transport
  | (none, t)         => t

/-! ## Registers without a value, and reset -/

/-- FRAME has no value again once the READ that wrote it has ended (R25): a free value. -/
def State.forgetFrame (s : State) : State :=
  { s with frame := Config.freeFrame s.draws, draws := s.draws + 1 }

/-- Reset (R290, R292): the registers of rule R42 at their values, the data registers without a value, thresholds and
configuration as they are; a running operation is abandoned without a response and the bus grant given up. The record of
events and responses starts again (log 7); what the outside has yet to give stays. -/
def State.resetNow (s : State) : State :=
  { s with
    dstate  := .uninitialized
    phase   := .idle
    err     := .none
    status  := Config.freeStatus s.draws
    frame   := Config.freeFrame s.draws
    rawH    := Config.freeRawH s.draws
    rawT    := Config.freeRawT s.draws
    temp    := Config.freeTemp s.draws
    hum     := Config.freeHum s.draws
    rdValid := false
    pollCnt := 0
    busReq  := false
    rst     := false
    draws   := s.draws + 1
    trace   := []
    resp    := [] }

/-! ## What the host can read -/

/-- The registers the host can read (R20, R29; decision D28). -/
structure HostView where
  dstate  : BitVec 3
  err     : BitVec 3
  rdValid : Bool
  thLow   : B32
  thHigh  : B32
  thHum   : B32
  deriving DecidableEq, Repr

/-- The host reads the block between operations only (R20, R29): nothing while PHASE is not IDLE. -/
def State.hostView (s : State) : Option HostView :=
  if s.phase = .idle then some ⟨s.dstate.code, s.err.code, s.rdValid, s.thLow, s.thHigh, s.thHum⟩ else none

end Sys2Proof.Machine
end

