-- ==== Sys2Proof/Machine/Classifier.lean ====
section
/-! DEFINITION. CLASSIFY, the threshold classifier (rules R200, R201, R203). -/

namespace Sys2Proof.Machine

/-- CLASSIFY: the indicator bits of the reading against the threshold registers; NotReadyError without a valid reading.
No register is written (R201, R203). It is not accepted while PHASE is not IDLE (R130). -/
def execClassify (s : State) : Host.Outcome State Fault Refusal :=
  .next (s.inPhase .idle fun s =>
    if s.rdValid then s.respond .none (.indicators (classify s.temp s.hum s.thLow s.thHigh s.thHum))
    else s.notReady)

end Sys2Proof.Machine
end

