-- ==== Sys2Proof/Machine/Convert.lean ====
section
/-! DEFINITION. The unit conversion of DECODE (rules R184 to R186): raw fields to °C and %RH in binary32. -/

namespace Sys2Proof.Machine

/-- conv_h: RN32 of 25 r / 2^18, the exact humidity (R185). -/
def convH (r : Raw20) : B32 := rn32 (25 * (r.toNat : Int)) 18

/-- conv_t with CONV_MODE = single: RN32 of (25 r - 6553600) / 2^17, the exact temperature rounded once (R184). -/
def convTSingle (r : Raw20) : B32 := rn32 (25 * (r.toNat : Int) - 6553600) 17

/-- conv_t with CONV_MODE = stepwise: RN32(RN32(r * 200 / 2^20) - 50) (R186). -/
def convTStepwise (r : Raw20) : B32 :=
  rn32 ((rn32 (25 * (r.toNat : Int)) 17).scaled - 50 * (unitsPerOne : Int)) 149

/-- conv_t under the configured CONV_MODE (R184, R186). -/
def convT : ConvMode → Raw20 → B32
  | .single, r   => convTSingle r
  | .stepwise, r => convTStepwise r

end Sys2Proof.Machine
end

