-- ==== Sys2Proof/Machine/Decoder.lean ====
section
/-! DEFINITION. DECODE, the frame parser and unit conversion, and the end of READ in the same phase (rules R140, R181). -/

namespace Sys2Proof.Machine

/-- The four assignments of rule R181, in its order. -/
def State.decodeFrame (s : State) : State :=
  { s with
    rawH := rawHumidity s.frame
    rawT := rawTemperature s.frame
    hum  := convH (rawHumidity s.frame)
    temp := convT s.cfg.convMode (rawTemperature s.frame) }

/-- Phase M_DEC after DECODE: RD_VALID <- 1, the end of the operation with the reading (R140, R148); FRAME has no value
from here on (R25). -/
def State.endRead (s : State) : State :=
  ({ s with rdValid := true }.forgetFrame).finish (.reading s.temp s.hum)

/-- DECODE, taken in phase M_DEC (R181, R140). -/
def execDecode (s : State) : Host.Outcome State Fault Refusal :=
  .next (s.inPhase .mDec fun t => t.decodeFrame.endRead)

end Sys2Proof.Machine
end

