-- ==== Sys2Proof/Machine/Driver.lean ====
section
/-! DEFINITION. The driver: acceptance of INIT and READ (rules R131, R132, R140, R141), the three wire commands and the
two bus reads with what their phases do next (rules R131, R140, R150 to R154), and the steps of rules R131 and R140 that
are no row of the operation table: Acquire(), the four delays and the calibration check. -/

namespace Sys2Proof.Machine

/-! ## Acceptance of the host operations -/

/-- INIT is accepted in these lifecycle states (R132). -/
def DState.admitsInit : DState → Bool
  | .uninitialized | .ready | .faulted => true
  | .resetting | .awaitingCalibration | .measuring => false

/-- INIT: the `accept` line of rule R131. It is not accepted, and nothing happens, while PHASE is not IDLE (R130). -/
def execInit (s : State) : Host.Outcome State Fault Refusal :=
  .next (s.inPhase .idle fun s =>
    if s.dstate.admitsInit then
      { s with err := .none, rdValid := false, dstate := .resetting, phase := .iAcq }
    else s)

/-- READ: the `accept` line of rule R140; outside Ready, NotReadyError and nothing else (R141). -/
def execRead (s : State) : Host.Outcome State Fault Refusal :=
  .next (s.inPhase .idle fun s =>
    if s.dstate = .ready then
      { s with err := .none, rdValid := false, pollCnt := 0, dstate := .measuring, phase := .mAcq }
    else s.notReady)

/-! ## The wire commands -/

/-- SOFT_RESET, issued in phase I_RST_W (R150, R131). -/
def execSoftReset (s : State) : Host.Outcome State Fault Refusal :=
  .next (s.inPhase .iRstW (State.busWrite softResetBytes fun t => { t with phase := .iRstD }))

/-- INIT_CFG, issued in phase I_CFG_W (R151, R131). -/
def execInitCfg (s : State) : Host.Outcome State Fault Refusal :=
  .next (s.inPhase .iCfgW (State.busWrite initCfgBytes fun t => { t with phase := .iCfgD }))

/-- TRIGGER, issued in phase M_TRG_W (R152, R140). -/
def execTrigger (s : State) : Host.Outcome State Fault Refusal :=
  .next (s.inPhase .mTrgW (State.busWrite triggerBytes fun t => { t with phase := .mCnvD }))

/-! ## The bus reads -/

/-- STATUS <- r.bytes[0] (R153). -/
def State.storeStatus (bytes : List Byte) (s : State) : State :=
  { s with status := bytes.getD 0 0 }

/-- The busy test of phase M_POLL_R, after the status byte is stored: the flag first, then the counter (R140, R142, R143,
R145). -/
def State.pollTest (s : State) : State :=
  if busyFlag s.status = false then { s with phase := .mFrmR }
  else if s.pollCnt = s.cfg.pollMax then s.raise .timeout
  else { s with phase := .mPollD }

/-- STATUS_READ, issued in phases I_ST_R and M_POLL_R (R153, R131, R140). -/
def execStatusRead (s : State) : Host.Outcome State Fault Refusal :=
  .next (match s.phase with
    | .iStR   => s.busRead statusLen fun bytes t => { t.storeStatus bytes with phase := .iChk }
    | .mPollR => s.busRead statusLen fun bytes t => (t.storeStatus bytes).pollTest
    | .idle | .iAcq | .iRstW | .iRstD | .iCfgW | .iCfgD | .iChk | .mAcq | .mTrgW | .mCnvD | .mPollD | .mFrmR
    | .mDec   => s)

/-- FRAME_READ, issued in phase M_FRM_R (R154, R140). -/
def execFrameRead (s : State) : Host.Outcome State Fault Refusal :=
  .next (s.inPhase .mFrmR (State.busRead frameLen fun bytes t =>
    { t with frame := frameOfBytes bytes, phase := .mDec }))

/-! ## The steps between them -/

/-- Phases I_ACQ and M_ACQ (R131, R140). -/
def stepAcquire (next : Phase) (s : State) : State := s.acquire next

/-- Phase I_RST_D: Delay(T_RESET); DSTATE <- AwaitingCalibration (R131). -/
def stepResetDelay (s : State) : State :=
  s.delay s.cfg.tReset fun t => { t with dstate := .awaitingCalibration, phase := .iCfgW }

/-- Phase I_CFG_D: Delay(T_INIT) (R131). -/
def stepInitDelay (s : State) : State :=
  s.delay s.cfg.tInit fun t => { t with phase := .iStR }

/-- Phase I_CHK: the calibration check (R131, R134). -/
def stepCheck (s : State) : State :=
  if calFlag s.status = false then s.raise .calibration else s.finish .nothing

/-- Phase M_CNV_D: Delay(T_CONV) (R140). -/
def stepConversionDelay (s : State) : State :=
  s.delay s.cfg.tConv fun t => { t with phase := .mPollR }

/-- Phase M_POLL_D: Delay(T_POLL), one retry sleep (R140, R27). -/
def stepPollDelay (s : State) : State :=
  s.delay s.cfg.tPoll fun t => { t with pollCnt := t.pollCnt + 1, phase := .mPollR }

end Sys2Proof.Machine
end

