-- ==== Sys2Proof/Machine/Decimal.lean ====
section
/-! DEFINITION. The numbers of the telemetry lines in ASCII (rules R218 to R220, R226, R228). -/

namespace Sys2Proof.Machine

/-- The ASCII code of a decimal digit (R218). -/
def digitByte (d : Nat) : Byte := BitVec.ofNat 8 (0x30 + d)

/-- The decimal digits of `n`, most significant first; the first argument bounds how many are written. -/
def digitsUpTo : Nat → Nat → List Byte
  | 0, _ => []
  | fuel + 1, n => if n < 10 then [digitByte n] else digitsUpTo fuel (n / 10) ++ [digitByte (n % 10)]

/-- udec: `n` in decimal, no sign, no leading zero, `0` for zero (R220). A number of k bits has at most k digits. -/
def udec (n : Nat) : List Byte := digitsUpTo (n.log2 + 1) n

/-- |x| * 10^n rounded to the nearest integer, a tie to the even one, `x` being the exact value of `v` (R219). -/
def decScaled (v : B32) (n : Nat) : Nat := roundHalfEven (v.mag * 10 ^ n) unitsPerOne

/-- `k` in decimal, padded on the left with `0` to at least `n + 1` digits (R219). -/
def decDigits (k n : Nat) : List Byte :=
  List.replicate (n + 1 - (udec k).length) (digitByte 0) ++ udec k

/-- `.` before the last `n` digits; no point when `n` is 0 (R219). -/
def withPoint (n : Nat) (ds : List Byte) : List Byte :=
  if n = 0 then ds else ds.take (ds.length - n) ++ [0x2E#8] ++ ds.drop (ds.length - n)

/-- dec(v, n): the decimal rendering with `n` digits after the point, `-` in front exactly when the sign bit is 1 (R219,
R226). It is defined on finite values only (R228). -/
def dec (v : B32) (n : Nat) : Option (List Byte) :=
  if v.isFinite then
    some ((if v.sign then [0x2D#8] else []) ++ withPoint n (decDigits (decScaled v n) n))
  else none

end Sys2Proof.Machine
end

