-- ==== Sys2Proof/Machine/Telemetry.lean ====
section
/-! DEFINITION. ENCODE, the telemetry packet formatter (rules R215 to R217, R222 to R228). -/

namespace Sys2Proof.Machine

/-- CR, LF: the two bytes that end each line (R225). -/
def crlf : List Byte := [0x0D#8, 0x0A#8]

/-- A line: four template segments around the three printed values, then CR LF (R97, R98, R216). -/
def lineOf (pre mid1 mid2 post temp hum ts : List Byte) : List Byte :=
  pre ++ temp ++ mid1 ++ hum ++ mid2 ++ ts ++ post ++ crlf

/-- The structured line: two decimals (R97, R216). -/
def structuredLine (c : Config) (t h : B32) (ts : Nat) : Option (List Byte) :=
  (dec t 2).bind fun t => (dec h 2).map fun h => lineOf c.sPre c.sMid1 c.sMid2 c.sPost t h (udec ts)

/-- The human line: HUMAN_DP decimals (R98, R216). -/
def humanLine (c : Config) (t h : B32) (ts : Nat) : Option (List Byte) :=
  (dec t c.humanDp).bind fun t => (dec h c.humanDp).map fun h => lineOf c.hPre c.hMid1 c.hMid2 c.hPost t h (udec ts)

/-- encode(t, h, ts) = (SL, HL), structured first (R215, R231); not defined on a NaN or an infinity (R228). -/
def telemetry (c : Config) (t h : B32) (ts : Nat) : Option Payload :=
  (structuredLine c t h ts).bind fun sl => (humanLine c t h ts).map fun hl => .lines sl hl

/-- ENCODE: both lines for the reading and the host's timestamp; NotReadyError without a valid reading (R216, R217). A
reading that is not finite is refused (R228). It is not accepted while PHASE is not IDLE (R130). -/
def execEncode (ts : Nat) (s : State) : Host.Outcome State Fault Refusal :=
  if s.phase = .idle then
    if s.rdValid then
      match telemetry s.cfg s.temp s.hum ts with
      | some p => .next (s.respond .none p)
      | none   => .refused .nonFiniteReading
    else .next s.notReady
  else .next s

end Sys2Proof.Machine
end

