-- ==== Sys2Proof/Machine/Dispatch.lean ====
section
/-! DEFINITION. One arm per operation of rule R3. -/

namespace Sys2Proof.Machine

def exec (i : Instr) (s : State) : Host.Outcome State Fault Refusal :=
  match i with
  | .init => Sys2Proof.Machine.execInit s
  | .read => Sys2Proof.Machine.execRead s
  | .classify => Sys2Proof.Machine.execClassify s
  | .encode ts => Sys2Proof.Machine.execEncode ts s
  | .softReset => Sys2Proof.Machine.execSoftReset s
  | .initCfg => Sys2Proof.Machine.execInitCfg s
  | .trigger => Sys2Proof.Machine.execTrigger s
  | .statusRead => Sys2Proof.Machine.execStatusRead s
  | .frameRead => Sys2Proof.Machine.execFrameRead s
  | .decode => Sys2Proof.Machine.execDecode s

end Sys2Proof.Machine
end

