-- ==== Sys2Proof/Machine/Select.lean ====
section
/-! DEFINITION. What stands for instruction fetch: the selection of the next step from PHASE and, in IDLE, from what the
host presents (rules R21, R100, R108, R130); and how a word of the operation table is put where that selection finds it. -/

namespace Sys2Proof.Machine

/-- What a step does: run an operation of the table on a state, or go to a state. -/
inductive Selected where
  | run (i : Instr) (s : State)
  | goTo (s : State)
  deriving DecidableEq, Repr

/-- In IDLE: the host's next presentation, taken off the port, is decoded; a code that names no operation is not accepted
and changes nothing (R108); with nothing presented the block takes no step of its own (R21). -/
def State.selectIdle (s : State) : Selected :=
  match s.hostIn with
  | [] => .goTo s
  | w :: rest =>
    match decode s.cfg.tsBits (.host w) with
    | .ok i => .run i { s with hostIn := rest }
    | .error _ => .goTo { s with hostIn := rest }

/-- The step that each phase takes (R23, R100, R131, R140). -/
def State.select (s : State) : Selected :=
  match s.phase with
  | .idle   => s.selectIdle
  | .iAcq   => .goTo (stepAcquire .iRstW s)
  | .iRstW  => .run .softReset s
  | .iRstD  => .goTo (stepResetDelay s)
  | .iCfgW  => .run .initCfg s
  | .iCfgD  => .goTo (stepInitDelay s)
  | .iStR   => .run .statusRead s
  | .iChk   => .goTo (stepCheck s)
  | .mAcq   => .goTo (stepAcquire .mTrgW s)
  | .mTrgW  => .run .trigger s
  | .mCnvD  => .goTo (stepConversionDelay s)
  | .mPollR => .run .statusRead s
  | .mPollD => .goTo (stepPollDelay s)
  | .mFrmR  => .run .frameRead s
  | .mDec   => .run .decode s

/-- The phase in which the block takes an operation; STATUS_READ has two, of which this is INIT's (R62, R100). -/
def issuingPhase : Instr → Phase
  | .init | .read | .classify | .encode _ => .idle
  | .softReset  => .iRstW
  | .initCfg    => .iCfgW
  | .trigger    => .mTrgW
  | .statusRead => .iStR
  | .frameRead  => .mFrmR
  | .decode     => .mDec

/-- What the next step needs around an operation's word (log 8): PHASE at the operation's phase, reset not asserted, and
what the word itself is: the answer that a bus read gets, the transport's success for a command, the stored frame. -/
def State.supply (w : OpWord) (i : Instr) (s : State) : State :=
  let t := { s with phase := issuingPhase i, rst := false }
  match w with
  | .host _       => t
  | .command _    => { t with busIn := some (.ok []) :: t.busIn }
  | .answer bytes => { t with busIn := some (.ok bytes) :: t.busIn }
  | .stored bytes => { t with frame := frameOfBytes bytes }

/-- Put a word that decodes to an operation where the next step takes it: a host operation first on the port. -/
def State.present (w : OpWord) (i : Instr) (s : State) : State :=
  match w with
  | .host h => { s.supply w i with hostIn := h :: s.hostIn }
  | .command _ | .answer _ | .stored _ => s.supply w i

/-- The same for a word of the operation table. For a word that stands for no operation the host presents the code 0x00,
which names none, so the next step runs nothing (logs 8, 9). -/
def State.presentWord (nbits w : Nat) (s : State) : State :=
  match firstOp tableTsBits (OpWord.ofTable nbits w) with
  | some (word, i) => s.present word i
  | none => { s with phase := .idle, rst := false, hostIn := ⟨0x00#8, 0⟩ :: s.hostIn }

end Sys2Proof.Machine
end

