-- ==== Sys2Proof/Machine/Step.lean ====
section
/-! DEFINITION. One step of the machine: reset where it is asserted (rule R292), else what PHASE and the host select. -/

namespace Sys2Proof.Machine

/-- One step: one bus transaction, one delay, one grant event or one pure computation (R5), a wait for one of them (R73,
R262, R268), or a reset. -/
def step (s : State) : Host.Outcome State Fault Refusal :=
  if s.rst then .next s.resetNow
  else
    match s.select with
    | .run i t => exec i t
    | .goTo t  => .next t

/-- `s` with the word's operation placed where the next step takes it (log 8). -/
def State.withFetchWord (s : State) (nbits w : Nat) : State :=
  s.presentWord nbits w

end Sys2Proof.Machine
end

