-- ==== Sys2Proof/Safety.lean ====
section
/-! DEFINITION. What claims are stated in: the range of a reading (rule R35), the state invariant (rules R27, R46, R47),
the states a run can be in, and the named premises about the outside that rule R77 lists and the model does not
assume. -/

namespace Sys2Proof

/-- Zero as +0, or a normal number: no NaN, no infinity, no subnormal, no -0 (R35, R188). -/
def B32.normalOrPlusZero (v : B32) : Bool := v == 0#32 || (v.expo != 0 && v.expo != 255)

/-- The five operations that are bus transactions (R62). -/
def Instr.isTransaction : Instr → Bool
  | .softReset | .initCfg | .trigger | .statusRead | .frameRead => true
  | .init | .read | .classify | .encode _ | .decode => false

end Sys2Proof

namespace Sys2Proof.Machine

/-! ## The reading -/

/-- TEMP between -50.0 (0xC2480000) and 149.99981689453125 (0x4315FFF4) (R35). -/
def tempInRange (t : B32) : Prop :=
  t.normalOrPlusZero = true ∧ B32.scaled 0xC2480000#32 ≤ t.scaled ∧ t.scaled ≤ B32.scaled 0x4315FFF4#32

/-- HUM between +0.0 and 99.99990844726562 (0x42C7FFF4) (R35). -/
def humInRange (h : B32) : Prop :=
  h.normalOrPlusZero = true ∧ 0 ≤ h.scaled ∧ h.scaled ≤ B32.scaled 0x42C7FFF4#32

/-! ## The results given so far -/

/-- A response that ended an accepted INIT or READ. A refusal accepts nothing, and CLASSIFY and ENCODE answer with
payloads of their own (R92, R254). -/
def Response.endsDriverOperation (r : Response) : Bool :=
  match r.code, r.payload with
  | .none, .nothing => true
  | .none, .reading _ _ => true
  | .none, .indicators _ => false
  | .none, .lines _ _ => false
  | .transport, _ => true
  | .calibration, _ => true
  | .timeout, _ => true
  | .notReady, _ => false

/-- The response of a READ that returned OK. -/
def Response.isReading (r : Response) : Bool :=
  match r.code, r.payload with
  | .none, .reading _ _ => true
  | .none, .nothing => false
  | .none, .indicators _ => false
  | .none, .lines _ _ => false
  | .transport, _ => false
  | .calibration, _ => false
  | .timeout, _ => false
  | .notReady, _ => false

/-- The response of the latest accepted INIT or READ that has ended since reset. -/
def lastDriver (resp : List Response) : Option Response :=
  (resp.filter Response.endsDriverOperation).getLast?

/-- The code ERR holds after these responses: None where no INIT or READ has ended (R46 d). -/
def lastCode (resp : List Response) : ErrKind :=
  match lastDriver resp with
  | none => .none
  | some r => r.code

/-! ## The invariant -/

/-- The lifecycle states that go with a phase (R22, R46 b; decision D4). -/
def Phase.lifecycles : Phase → List DState
  | .idle => [.uninitialized, .ready, .faulted]
  | .iAcq | .iRstW | .iRstD => [.resetting]
  | .iCfgW | .iCfgD | .iStR | .iChk => [.awaitingCalibration]
  | .mAcq | .mTrgW | .mCnvD | .mPollR | .mPollD | .mFrmR | .mDec => [.measuring]

/-- The phases in which the grant has been given and not given up: all but IDLE and the two that wait for it. -/
def Phase.holdsBus : Phase → Bool
  | .idle | .iAcq | .mAcq => false
  | .iRstW | .iRstD | .iCfgW | .iCfgD | .iStR | .iChk | .mTrgW | .mCnvD | .mPollR | .mPollD | .mFrmR | .mDec => true

/-- The invariant of the block (R27, R35, R46, R47). -/
structure Inv (s : State) : Prop where
  /-- R46 (a). -/
  idleReleased : s.phase = .idle → s.busReq = false
  /-- R72: the grant covers every phase between Acquire() and Release(). -/
  heldWhileBusy : s.phase.holdsBus = true → s.busReq = true
  /-- R46 (b), R22. -/
  lifecycle : s.dstate ∈ s.phase.lifecycles
  /-- R30, R34: both are cleared at acceptance and set at the end. -/
  runningClean : s.phase ≠ .idle → s.err = .none ∧ s.rdValid = false
  /-- R46 (c), R35. -/
  readingGood : s.rdValid = true →
    s.dstate = .ready ∧ s.err = .none ∧ tempInRange s.temp ∧ humInRange s.hum
  /-- R30: NotReadyError is never stored. -/
  errStored : s.err ≠ .notReady
  /-- R46 (e). -/
  faultedErr : s.dstate = .faulted → s.err = .transport ∨ s.err = .calibration
  /-- R46 (e), (f): the two fatal errors go with Faulted, and a timeout with Ready. -/
  errLifecycle : s.phase = .idle →
    (s.err = .timeout → s.dstate = .ready) ∧
    (s.err = .transport ∨ s.err = .calibration → s.dstate = .faulted)
  /-- R27. -/
  pollBound : s.pollCnt ≤ s.cfg.pollMax
  /-- R143: a retry sleep is entered only while one is left, and after a busy answer. -/
  pollRoom : s.phase = .mPollD → s.pollCnt < s.cfg.pollMax ∧ busyFlag s.status = true
  /-- R47: the frame is read and decoded only after a status byte with BUSY clear. -/
  notBusy : s.phase = .mFrmR ∨ s.phase = .mDec → busyFlag s.status = false
  /-- R46 (d). -/
  errHistory : s.phase = .idle → s.err = lastCode s.resp
  /-- R46 (c). -/
  readHistory : s.phase = .idle → s.rdValid = (lastDriver s.resp).any Response.isReading
  /-- R148: the valid reading is the one that the latest READ returned. -/
  readingReturned : s.rdValid = true → lastDriver s.resp = some ⟨.none, .reading s.temp s.hum⟩

/-! ## The states of a run -/

/-- The states a run can be in: a build of any configuration after reset, any change of the inputs by the outside, and
any step. -/
inductive Reachable : State → Prop where
  | start (c : Config) (lo hi hh : B32) :
      Reachable { State.reset with cfg := c, thLow := lo, thHigh := hi, thHum := hh }
  | input (s : State) (rst : Bool) (host : List HostWord) (grants timers : List Bool) (bus : List (Option BusAnswer)) :
      Reachable s →
      Reachable { s with rst := rst, hostIn := host, grantIn := grants, timerIn := timers, busIn := bus }
  | step (s t : State) : Reachable s → step s = .next t → Reachable t

/-- The events a step adds to the trace. -/
def newEvents (s t : State) : List Event := t.trace.drop s.trace.length

/-- A bus transaction, as against a grant event or a delay. -/
def Event.isTransaction : Event → Bool
  | .write _ _ _ | .read _ _ _ => true
  | .acq | .rel | .delay _ => false

/-- A delay that is over. -/
def Event.isDelay : Event → Bool
  | .delay _ => true
  | .write _ _ _ | .read _ _ _ | .acq | .rel => false

/-- `n` steps of the machine. -/
def run (n : Nat) (s : State) : Host.Outcome State Fault Refusal := Host.Core.run Sys2Proof.core n s

/-- A transaction that failed: no success, or a read answered with another number of bytes (R61). -/
def Event.failed : Event → Bool
  | .write _ _ ok => !ok
  | .read _ _ .fail => true
  | .read _ count (.ok bytes) => bytes.length != count
  | .acq | .rel | .delay _ => false

/-- The status byte that a STATUS_READ got: none for a `fail`, and none for an answer of another number of bytes, which is
a `fail` (R61). -/
def Event.statusByte : Event → Option Byte
  | .read _ 1 (.ok [b]) => some b
  | .read _ _ _ | .write _ _ _ | .acq | .rel | .delay _ => none

/-- A status read that found BUSY set. -/
def Event.sawBusy (e : Event) : Bool := e.statusByte.any busyFlag

/-- The lifecycle state that rule R158's table gives after a step from `s` that added the events `ev`. -/
def lifecycleAfter (s : State) (ev : List Event) : DState :=
  if s.rst then .uninitialized
  else match s.phase with
    | .idle =>
      match s.hostIn with
      | [] => s.dstate
      | w :: _ =>
        if w.code = 0x01#8 && s.dstate.admitsInit then .resetting
        else if w.code = 0x02#8 && s.dstate = .ready then .measuring
        else s.dstate
    | .iRstW | .iCfgW | .iStR | .mTrgW | .mFrmR => if ev.any Event.failed then .faulted else s.dstate
    | .iRstD => if ev = [.delay s.cfg.tReset] then .awaitingCalibration else s.dstate
    | .iChk => if calFlag s.status then .ready else .faulted
    | .mPollR =>
      if ev.any Event.failed then .faulted
      else if ev.any Event.sawBusy && s.pollCnt = s.cfg.pollMax then .ready
      else s.dstate
    | .mDec => .ready
    | .iAcq | .iCfgD | .mAcq | .mCnvD | .mPollD => s.dstate

/-- The events of a run of busy status reads, each followed by one retry sleep (R78, R142). -/
def busyEvents (tPoll : Nat) (busy : List Byte) : List Event :=
  busy.flatMap fun b => [.read devAddr 1 (.ok [b]), .delay tPoll]

/-- What the bus is to answer for them. -/
def statusAnswers (bytes : List Byte) : List (Option BusAnswer) :=
  bytes.map fun b => some (.ok [b])

/-! ## Decimal text -/

/-- A byte that is the ASCII code of a decimal digit (R218). -/
def isDigit (b : Byte) : Bool := decide (0x30 ≤ b.toNat) && decide (b.toNat ≤ 0x39)

/-- The number a string of digits stands for. -/
def digitsValue (bytes : List Byte) : Nat :=
  bytes.foldl (fun acc b => 10 * acc + (b.toNat - 0x30)) 0

/-- Digits without a leading zero: not empty, and `0` in front only when it stands alone (R219, R220). -/
def plainNumber (bytes : List Byte) : Prop :=
  bytes ≠ [] ∧ bytes.all isDigit = true ∧ (bytes.head? = some 0x30#8 → bytes = [0x30#8])

/-! ## The premises of rule R77: assumptions a claim may take, built into nothing -/

/-- P_BUS_OK: every transaction of the trace answers ok; a read of another number of bytes than asked is a `fail`
(R61). -/
def pBusOk (trace : List Event) : Bool := trace.all fun e => !e.failed

/-- P_CAL, at the head of a trace. A status read that failed gives no byte to look at (R61). -/
def calHere : List Event → Bool
  | .write _ r true :: .delay _ :: .write _ c true :: .delay _ :: e :: _ =>
    r != softResetBytes || c != initCfgBytes || e.statusByte.all calFlag
  | _ => true

/-- P_CAL: after SOFT_RESET, T_RESET, INIT_CFG, T_INIT the status byte has bit 3 set. -/
def pCal (trace : List Event) : Bool := trace.tails.all calHere

/-- Some status read among the next `n` has bit 7 clear. Delays stand between the reads of one operation; any other event, a
read that failed (R61) among them, ends them, and so does the end of the trace. -/
def clearAmong : Nat → List Event → Bool
  | 0, _ | _, [] => false
  | n + 1, e :: rest =>
    if e.isDelay then clearAmong (n + 1) rest
    else match e.statusByte with
      | some b => !busyFlag b || clearAmong n rest
      | none => false

/-- P_DONE, at the head of a trace. A TRIGGER that failed started no conversion (log 17). -/
def doneHere (pollMax : Nat) : List Event → Bool
  | .write _ t true :: rest => t != triggerBytes || clearAmong (pollMax + 1) rest
  | _ => true

/-- P_DONE: after a TRIGGER, some status read among the first POLL_MAX + 1 has bit 7 clear. A trace that breaks off before
that read does not meet it (log 17). -/
def pDone (pollMax : Nat) (trace : List Event) : Bool := trace.tails.all (doneHere pollMax)

/-- P_FRESH, at the head of a trace in which `n` TRIGGERs have gone before: a frame right after a status byte with bit 7
clear, so with no other master in between, has FRAME[0][7] = 0 and the payload of conversion `n`. -/
def freshHere (conversion : Nat → List Byte) (n : Nat) : List Event → Bool
  | .read _ 1 (.ok [s]) :: .read _ 6 (.ok (f0 :: payload)) :: _ =>
    busyFlag s || payload.length != 5 || (!busyFlag f0 && payload == conversion n)
  | _ => true

/-- P_FRESH from a point of the trace on. -/
def freshFrom (conversion : Nat → List Byte) : Nat → List Event → Bool
  | _, [] => true
  | n, e :: rest =>
    freshHere conversion n (e :: rest) &&
      freshFrom conversion (match e with
        | .write _ t _ => if t = triggerBytes then n + 1 else n
        | .read _ _ _ | .acq | .rel | .delay _ => n) rest

/-- P_FRESH: a frame that follows a status byte with bit 7 clear has FRAME[0][7] = 0 and carries the result of the
conversion that the latest TRIGGER started. The sensor is no part of the block (R41), so what its conversions result in
is an argument: `conversion n` is the five payload bytes of the one that the `n`-th TRIGGER started (log 17). -/
def pFresh (conversion : Nat → List Byte) (trace : List Event) : Bool := freshFrom conversion 0 trace

/-- What each waiting phase waits for, as an event of the trace (R23); IDLE, I_CHK and M_DEC wait for no agent. -/
def Phase.endsWait (p : Phase) (e : Event) : Bool :=
  match p with
  | .iAcq | .mAcq => e == .acq
  | .iRstD | .iCfgD | .mCnvD | .mPollD => e.isDelay
  | .iRstW | .iCfgW | .iStR | .mTrgW | .mPollR | .mFrmR => e.isTransaction
  | .idle | .iChk | .mDec => false

/-- In the run from `s`, however far it has gone, every wait in one of these phases ends with what it waits for. The
agents are those of the run: the listed samples, then the free draws (log 10). -/
def waitsEnd (phases : List Phase) (s : State) : Prop :=
  ∀ (n : Nat) (t : State), run n s = .next t → t.rst = false → t.phase ∈ phases →
    ∃ (m : Nat) (u : State), run m t = .next u ∧ (newEvents t u).any t.phase.endsWait = true

/-- P_GRANT: every Acquire() of the run is eventually granted (R73, R77). -/
def pGrant (s : State) : Prop := waitsEnd [.iAcq, .mAcq] s

/-- P_DELAY: every Delay(t) of the run eventually ends (R77, R262). -/
def pDelay (s : State) : Prop := waitsEnd [.iRstD, .iCfgD, .mCnvD, .mPollD] s

/-- Every transaction of the run is eventually answered (R268). -/
def pAnswers (s : State) : Prop := waitsEnd [.iRstW, .iCfgW, .iStR, .mTrgW, .mPollR, .mFrmR] s

end Sys2Proof.Machine
end

