-- ==== Sys2Proof/Certificates/Slice0/Obligations.lean ====
section
/-! DEFINITION. The statements for the provers, in the order of OBLIGATIONS.json. -/

open Sys2Proof Sys2Proof.Machine

/-! ## Reset, configuration, selection -/

/-- R290: reset, at power-up and whenever it is asserted, puts the registers of R42 at their values, leaves the data
registers without a value, keeps thresholds and configuration, issues no transaction and performs no delay. That the
records start empty again is the model's own (log 7). -/
def Obligations.ResetLeavesUninitialized : Prop :=
  (State.reset.dstate = .uninitialized ∧ State.reset.phase = .idle ∧ State.reset.err = .none ∧
    State.reset.rdValid = false ∧ State.reset.pollCnt = 0 ∧ State.reset.busReq = false ∧
    State.reset.trace = [] ∧ State.reset.resp = []) ∧
  ∀ s : State, s.rst = true → step s = .next
    { s with
      dstate := .uninitialized, phase := .idle, err := .none, rdValid := false, pollCnt := 0, busReq := false,
      status := Config.freeStatus s.draws, frame := Config.freeFrame s.draws,
      rawH := Config.freeRawH s.draws, rawT := Config.freeRawT s.draws,
      temp := Config.freeTemp s.draws, hum := Config.freeHum s.draws,
      draws := s.draws + 1, rst := false, trace := [], resp := [] }

/-- The invariant holds at reset. -/
def Obligations.ResetMeetsTheInvariant : Prop := Inv State.reset

/-- Every step keeps the invariant (R27, R35, R46, R47). -/
def Obligations.StepKeepsTheInvariant : Prop :=
  ∀ s t : State, Inv s → step s = .next t → Inv t

/-- From a state that meets the invariant a step always answers a next state (R250, R268: errors are results, waits are
steps). -/
def Obligations.StepNeverStops : Prop :=
  ∀ s : State, Inv s → ∃ t : State, step s = .next t

/-- R100, R130: in IDLE the step takes the host's next presentation off the port and runs the operation it decodes to. -/
def Obligations.StepRunsTheDecodedHostOperation : Prop :=
  ∀ (s : State) (w : HostWord) (rest : List HostWord) (i : Instr),
    s.rst = false → s.phase = .idle → s.hostIn = w :: rest → decode s.cfg.tsBits (.host w) = .ok i →
    step s = exec i { s with hostIn := rest }

/-- R100: a wire command, a bus read and DECODE are selected by the phase the block is in. -/
def Obligations.StepRunsThePhasesOperation : Prop :=
  ∀ s : State, s.rst = false →
    (s.phase = .iRstW → step s = exec .softReset s) ∧
    (s.phase = .iCfgW → step s = exec .initCfg s) ∧
    (s.phase = .mTrgW → step s = exec .trigger s) ∧
    (s.phase = .iStR ∨ s.phase = .mPollR → step s = exec .statusRead s) ∧
    (s.phase = .mFrmR → step s = exec .frameRead s) ∧
    (s.phase = .mDec → step s = exec .decode s)

/-- The model's interface (log 8): a word of the operation table, placed in any state, is the very next operation, run on
the state with what the word itself is: an answer of the bus first among the answers to come, a command's success
likewise, nothing more for a host operation. -/
def Obligations.StepRunsThePlacedWord : Prop :=
  ∀ (s : State) (nbits w : Nat) (i : Instr),
    decodeTableWord nbits w = some i → i.wf s.cfg.tsBits = true →
    ∃ word : OpWord, word ∈ OpWord.ofTable nbits w ∧ decode tableTsBits word = .ok i ∧
      step (s.withFetchWord nbits w) = exec i (s.supply word i) ∧
      (∀ h : HostWord, word = .host h → s.supply word i = { s with phase := .idle, rst := false }) ∧
      (∀ bytes : List Byte, word = .answer bytes → s.supply word i =
        { s with phase := issuingPhase i, rst := false, busIn := some (.ok bytes) :: s.busIn }) ∧
      (∀ bytes : List Byte, word = .command bytes → s.supply word i =
        { s with phase := issuingPhase i, rst := false, busIn := some (.ok []) :: s.busIn })

/-- R108: a HOST code other than 0x01 to 0x04 is not accepted: no state changes and there is no response. The
presentation itself is over (log 9). -/
def Obligations.UnknownHostCodeChangesNothing : Prop :=
  ∀ (s : State) (w : HostWord) (rest : List HostWord),
    s.rst = false → s.phase = .idle → s.hostIn = w :: rest →
    w.code ≠ 0x01#8 → w.code ≠ 0x02#8 → w.code ≠ 0x03#8 → w.code ≠ 0x04#8 →
    step s = .next { s with hostIn := rest }

/-- R130: an operation presented while PHASE is not IDLE is not accepted and has no effect, and the port is not looked
at. That exec then answers the same state is the model's form of it (log 6). -/
def Obligations.HostIsNotHeardWhileRunning : Prop :=
  ∀ s : State, s.phase ≠ .idle →
    (∀ i : Instr, i = .init ∨ i = .read ∨ i = .classify ∨ (∃ ts, i = .encode ts) → exec i s = .next s) ∧
    (s.rst = false → ∀ t : State, step s = .next t → t.hostIn = s.hostIn)

/-- R21: with PHASE = IDLE and nothing presented the block takes no step of its own. -/
def Obligations.IdleBlockWaitsForTheHost : Prop :=
  ∀ s : State, s.rst = false → s.phase = .idle → s.hostIn = [] → step s = .next s

/-! ## Encoding -/

/-- Decode and encode agree in both directions (R91, R93, R94, R100). -/
def Obligations.DecodeAndEncodeAgree : Prop :=
  (∀ (tsBits : Nat) (i : Instr), i.wf tsBits = true → decode tsBits (encode i) = .ok i) ∧
  (∀ (tsBits : Nat) (bytes : List Byte) (i : Instr),
    decode tsBits (.command bytes) = .ok i → encode i = .command bytes) ∧
  (∀ (tsBits : Nat) (w : HostWord) (i : Instr),
    decode tsBits (.host w) = .ok i →
    encode i = .host ⟨w.code, if w.code = 0x04#8 then w.operand % 2 ^ tsBits else 0⟩)

/-- The words of the operation table decode to their rows. -/
def Obligations.TableWordsDecode : Prop :=
  decodeTableWord 8 0x01 = some .init ∧ decodeTableWord 8 0x02 = some .read ∧
  decodeTableWord 8 0x03 = some .classify ∧ decodeTableWord 40 0x0400003039 = some (.encode 12345) ∧
  decodeTableWord 8 0xBA = some .softReset ∧ decodeTableWord 24 0xE10800 = some .initCfg ∧
  decodeTableWord 24 0xAC3300 = some .trigger ∧ decodeTableWord 8 0x88 = some .statusRead ∧
  decodeTableWord 48 0x0019999A6666 = some .frameRead ∧ decodeTableWord 24 0xE10801 = none

/-! ## INIT -/

/-- R131, R132: INIT is accepted from Uninitialized, Ready and Faulted, and clears ERR and RD_VALID. -/
def Obligations.InitIsAccepted : Prop :=
  ∀ s : State, s.phase = .idle → s.dstate = .uninitialized ∨ s.dstate = .ready ∨ s.dstate = .faulted →
    exec .init s = .next { s with err := .none, rdValid := false, dstate := .resetting, phase := .iAcq }

/-- R156: the whole of INIT, row by row, with the grant and the delays coming at once. -/
def Obligations.InitRunsByItsTable : Prop :=
  ∀ (s : State) (o : Nat) (rest : List HostWord) (gs ts : List Bool) (bus : List (Option BusAnswer))
    (d1 d2 : List Byte) (b : Byte),
    s.rst = false → s.phase = .idle → s.dstate = .uninitialized ∨ s.dstate = .ready ∨ s.dstate = .faulted →
    s.hostIn = ⟨0x01#8, o⟩ :: rest → s.grantIn = true :: gs → s.timerIn = true :: true :: ts →
    -- the first write fails
    (s.busIn = some .fail :: bus →
      run 3 s = .next { s with
        dstate := .faulted, err := .transport, rdValid := false, busReq := false,
        hostIn := rest, grantIn := gs, busIn := bus,
        trace := s.trace ++ [.acq, .write 0x38#8 [0xBA#8] false, .rel],
        resp := s.resp ++ [⟨.transport, .nothing⟩] }) ∧
    -- the second write fails
    (s.busIn = some (.ok d1) :: some .fail :: bus →
      run 5 s = .next { s with
        dstate := .faulted, err := .transport, rdValid := false, busReq := false,
        hostIn := rest, grantIn := gs, timerIn := true :: ts, busIn := bus,
        trace := s.trace ++ [.acq, .write 0x38#8 [0xBA#8] true, .delay s.cfg.tReset,
          .write 0x38#8 [0xE1#8, 0x08#8, 0x00#8] false, .rel],
        resp := s.resp ++ [⟨.transport, .nothing⟩] }) ∧
    -- the status read fails
    (s.busIn = some (.ok d1) :: some (.ok d2) :: some .fail :: bus →
      run 7 s = .next { s with
        dstate := .faulted, err := .transport, rdValid := false, busReq := false,
        hostIn := rest, grantIn := gs, timerIn := ts, busIn := bus,
        trace := s.trace ++ [.acq, .write 0x38#8 [0xBA#8] true, .delay s.cfg.tReset,
          .write 0x38#8 [0xE1#8, 0x08#8, 0x00#8] true, .delay s.cfg.tInit, .read 0x38#8 1 .fail, .rel],
        resp := s.resp ++ [⟨.transport, .nothing⟩] }) ∧
    -- the status byte comes back, with bit 3 clear or set
    (s.busIn = some (.ok d1) :: some (.ok d2) :: some (.ok [b]) :: bus →
      run 8 s = .next { s with
        dstate := if b.getLsbD 3 then .ready else .faulted,
        err := if b.getLsbD 3 then .none else .calibration,
        status := b, rdValid := false, busReq := false,
        hostIn := rest, grantIn := gs, timerIn := ts, busIn := bus,
        trace := s.trace ++ [.acq, .write 0x38#8 [0xBA#8] true, .delay s.cfg.tReset,
          .write 0x38#8 [0xE1#8, 0x08#8, 0x00#8] true, .delay s.cfg.tInit, .read 0x38#8 1 (.ok [b]), .rel],
        resp := s.resp ++ [⟨if b.getLsbD 3 then .none else .calibration, .nothing⟩] })

/-- R133: the calibration check looks at bit 3 of the status byte and at nothing else. -/
def Obligations.CalibrationBitAloneDecidesInit : Prop :=
  (∀ s : State, s.rst = false → s.phase = .iChk →
    step s = .next { s with
      dstate := if s.status.getLsbD 3 then .ready else .faulted,
      err := if s.status.getLsbD 3 then s.err else .calibration,
      busReq := false, phase := .idle, trace := s.trace ++ [.rel],
      resp := s.resp ++ [⟨if s.status.getLsbD 3 then .none else .calibration, .nothing⟩] }) ∧
  (∀ b ∈ [0x08#8, 0x88#8, 0xFF#8, 0x18#8], b.getLsbD 3 = true) ∧
  (∀ b ∈ [0x00#8, 0x80#8, 0xF7#8], b.getLsbD 3 = false)

/-! ## READ -/

/-- R140: READ is accepted in Ready, and clears ERR, RD_VALID and POLL_CNT. -/
def Obligations.ReadIsAccepted : Prop :=
  ∀ s : State, s.phase = .idle → s.dstate = .ready →
    exec .read s = .next { s with err := .none, rdValid := false, pollCnt := 0, dstate := .measuring, phase := .mAcq }

/-- R254 (with R141, R203, R217): an operation presented when the state does not admit it is answered with
NotReadyError, and nothing else changes. -/
def Obligations.RefusedOperationsChangeNothing : Prop :=
  ∀ s : State, s.phase = .idle →
    (s.dstate = .uninitialized ∨ s.dstate = .faulted →
      exec .read s = .next { s with resp := s.resp ++ [⟨.notReady, .nothing⟩] }) ∧
    (s.rdValid = false →
      exec .classify s = .next { s with resp := s.resp ++ [⟨.notReady, .nothing⟩] } ∧
      ∀ ts : Nat, exec (.encode ts) s = .next { s with resp := s.resp ++ [⟨.notReady, .nothing⟩] })

/-- R157: the whole of READ, row by row, with the grant and the delays coming at once; `busy` are the status bytes that
came back with bit 7 set before the answer that decides. That FRAME is a free value after the last row is the model's form
of R25 (log 2). -/
def Obligations.ReadRunsByItsTable : Prop :=
  ∀ (s : State) (o : Nat) (rest : List HostWord) (gs ts : List Bool) (bus : List (Option BusAnswer))
    (d : List Byte) (busy : List Byte) (b : Byte) (f0 f1 f2 f3 f4 f5 : Byte),
    s.rst = false → s.phase = .idle → s.dstate = .ready →
    s.hostIn = ⟨0x02#8, o⟩ :: rest → s.grantIn = true :: gs →
    s.timerIn = List.replicate (busy.length + 1) true ++ ts →
    (∀ x ∈ busy, x.getLsbD 7 = true) → busy.length ≤ s.cfg.pollMax →
    -- the trigger fails
    (s.busIn = some .fail :: bus →
      run 3 s = .next { s with
        dstate := .faulted, err := .transport, rdValid := false, pollCnt := 0, busReq := false,
        hostIn := rest, grantIn := gs, busIn := bus,
        trace := s.trace ++ [.acq, .write 0x38#8 [0xAC#8, 0x33#8, 0x00#8] false, .rel],
        resp := s.resp ++ [⟨.transport, .nothing⟩] }) ∧
    -- POLL_MAX + 1 busy answers
    (s.busIn = some (.ok d) :: (statusAnswers busy ++ some (.ok [b]) :: bus) → busy.length = s.cfg.pollMax →
      b.getLsbD 7 = true →
      run (2 * busy.length + 5) s = .next { s with
        dstate := .ready, err := .timeout, status := b, rdValid := false, pollCnt := busy.length, busReq := false,
        hostIn := rest, grantIn := gs, timerIn := ts, busIn := bus,
        trace := s.trace ++ ([.acq, .write 0x38#8 [0xAC#8, 0x33#8, 0x00#8] true, .delay s.cfg.tConv] ++
          busyEvents s.cfg.tPoll busy ++ [.read 0x38#8 1 (.ok [b]), .rel]),
        resp := s.resp ++ [⟨.timeout, .nothing⟩] }) ∧
    -- a status read fails
    (s.busIn = some (.ok d) :: (statusAnswers busy ++ some .fail :: bus) →
      run (2 * busy.length + 5) s = .next { s with
        dstate := .faulted, err := .transport, status := busy.getLast?.getD s.status, rdValid := false,
        pollCnt := busy.length, busReq := false,
        hostIn := rest, grantIn := gs, timerIn := ts, busIn := bus,
        trace := s.trace ++ ([.acq, .write 0x38#8 [0xAC#8, 0x33#8, 0x00#8] true, .delay s.cfg.tConv] ++
          busyEvents s.cfg.tPoll busy ++ [.read 0x38#8 1 .fail, .rel]),
        resp := s.resp ++ [⟨.transport, .nothing⟩] }) ∧
    -- the frame read fails
    (s.busIn = some (.ok d) :: (statusAnswers busy ++ some (.ok [b]) :: some .fail :: bus) → b.getLsbD 7 = false →
      run (2 * busy.length + 6) s = .next { s with
        dstate := .faulted, err := .transport, status := b, rdValid := false, pollCnt := busy.length, busReq := false,
        hostIn := rest, grantIn := gs, timerIn := ts, busIn := bus,
        trace := s.trace ++ ([.acq, .write 0x38#8 [0xAC#8, 0x33#8, 0x00#8] true, .delay s.cfg.tConv] ++
          busyEvents s.cfg.tPoll busy ++ [.read 0x38#8 1 (.ok [b]), .read 0x38#8 6 .fail, .rel]),
        resp := s.resp ++ [⟨.transport, .nothing⟩] }) ∧
    -- the frame comes back
    (s.busIn = some (.ok d) ::
        (statusAnswers busy ++ some (.ok [b]) :: some (.ok [f0, f1, f2, f3, f4, f5]) :: bus) → b.getLsbD 7 = false →
      run (2 * busy.length + 7) s = .next { s with
        dstate := .ready, err := .none, status := b, rdValid := true, pollCnt := busy.length, busReq := false,
        rawH := rawHumidity ⟨f0, f1, f2, f3, f4, f5⟩, rawT := rawTemperature ⟨f0, f1, f2, f3, f4, f5⟩,
        hum := convH (rawHumidity ⟨f0, f1, f2, f3, f4, f5⟩),
        temp := convT s.cfg.convMode (rawTemperature ⟨f0, f1, f2, f3, f4, f5⟩),
        frame := Config.freeFrame s.draws, draws := s.draws + 1,
        hostIn := rest, grantIn := gs, timerIn := ts, busIn := bus,
        trace := s.trace ++ ([.acq, .write 0x38#8 [0xAC#8, 0x33#8, 0x00#8] true, .delay s.cfg.tConv] ++
          busyEvents s.cfg.tPoll busy ++
          [.read 0x38#8 1 (.ok [b]), .read 0x38#8 6 (.ok [f0, f1, f2, f3, f4, f5]), .rel]),
        resp := s.resp ++ [⟨.none, .reading (convT s.cfg.convMode (rawTemperature ⟨f0, f1, f2, f3, f4, f5⟩))
          (convH (rawHumidity ⟨f0, f1, f2, f3, f4, f5⟩))⟩] })

/-! ## The wire commands and the bus reads -/

/-- R150, R151, R152: each wire command, in its phase, sends its bytes to 0x38 and writes no register but PHASE; `fail`
ends the operation with TransportError; out of its phase it is not issued, and exec then answers the same
state, which is the model's choice (log 6). -/
def Obligations.WireCommandsSendTheirBytes : Prop :=
  ∀ (c : Instr × Phase × List Byte × Phase),
    c ∈ [(Instr.softReset, Phase.iRstW, [0xBA#8], Phase.iRstD),
         (Instr.initCfg, Phase.iCfgW, [0xE1#8, 0x08#8, 0x00#8], Phase.iCfgD),
         (Instr.trigger, Phase.mTrgW, [0xAC#8, 0x33#8, 0x00#8], Phase.mCnvD)] →
    ∀ s u : State,
      (s.phase = c.2.1 →
        (∀ d : List Byte, s.busNext = (some (.ok d), u) →
          exec c.1 s = .next { u with phase := c.2.2.2, trace := u.trace ++ [.write 0x38#8 c.2.2.1 true] }) ∧
        (s.busNext = (some .fail, u) →
          exec c.1 s = .next { u with
            err := .transport, dstate := .faulted, busReq := false, phase := .idle,
            trace := u.trace ++ [.write 0x38#8 c.2.2.1 false, .rel],
            resp := u.resp ++ [⟨.transport, .nothing⟩] })) ∧
      (s.phase ≠ c.2.1 → exec c.1 s = .next s)

/-- R153: STATUS_READ, in its two phases, stores the one byte it gets; a failure (`fail`, or another number of bytes)
leaves STATUS as it was and is TransportError. That exec in every other phase answers the same state is the model's choice
(log 6). -/
def Obligations.StatusReadStoresItsByte : Prop :=
  ∀ s u : State,
    (s.phase = .iStR ∨ s.phase = .mPollR →
      (∀ b : Byte, s.busNext = (some (.ok [b]), u) →
        ∃ t : State, exec .statusRead s = .next t ∧ t.status = b ∧
          (s.phase = .iStR → t = { u with
            status := b, phase := .iChk, trace := u.trace ++ [.read 0x38#8 1 (.ok [b])] })) ∧
      (∀ a : BusAnswer, s.busNext = (some a, u) → (∀ b : Byte, a ≠ .ok [b]) →
        exec .statusRead s = .next { u with
          err := .transport, dstate := .faulted, busReq := false, phase := .idle,
          trace := u.trace ++ [.read 0x38#8 1 a, .rel], resp := u.resp ++ [⟨.transport, .nothing⟩] })) ∧
    (s.phase ≠ .iStR → s.phase ≠ .mPollR → exec .statusRead s = .next s)

/-- R145, R142, R143: in the poll loop the transport answer is looked at first, the busy flag second, the counter third. A
failed read, `fail` or another number of bytes (R61), is TransportError whatever the counter is. The spec marks R145 as
derived from R140. -/
def Obligations.PollLooksAtTransportThenFlagThenCounter : Prop :=
  ∀ s u : State, s.phase = .mPollR →
    (∀ a : BusAnswer, s.busNext = (some a, u) → (∀ b : Byte, a ≠ .ok [b]) →
      exec .statusRead s = .next { u with
        err := .transport, dstate := .faulted, busReq := false, phase := .idle,
        trace := u.trace ++ [.read 0x38#8 1 a, .rel], resp := u.resp ++ [⟨.transport, .nothing⟩] }) ∧
    (∀ b : Byte, s.busNext = (some (.ok [b]), u) →
      exec .statusRead s = .next
        (if b.getLsbD 7 = false then
          { u with status := b, phase := .mFrmR, trace := u.trace ++ [.read 0x38#8 1 (.ok [b])] }
        else if s.pollCnt = s.cfg.pollMax then
          { u with
            status := b, err := .timeout, dstate := .ready, busReq := false, phase := .idle,
            trace := u.trace ++ [.read 0x38#8 1 (.ok [b]), .rel], resp := u.resp ++ [⟨.timeout, .nothing⟩] }
        else
          { u with status := b, phase := .mPollD, trace := u.trace ++ [.read 0x38#8 1 (.ok [b])] }))

/-- R154: FRAME_READ stores the six bytes it gets, all at once; a failure leaves FRAME alone and is TransportError. That
exec in every other phase answers the same state is the model's choice (log 6). -/
def Obligations.FrameReadStoresSixBytes : Prop :=
  ∀ s u : State,
    (s.phase = .mFrmR →
      (∀ f0 f1 f2 f3 f4 f5 : Byte, s.busNext = (some (.ok [f0, f1, f2, f3, f4, f5]), u) →
        exec .frameRead s = .next { u with
          frame := ⟨f0, f1, f2, f3, f4, f5⟩, phase := .mDec,
          trace := u.trace ++ [.read 0x38#8 6 (.ok [f0, f1, f2, f3, f4, f5])] }) ∧
      (∀ a : BusAnswer, s.busNext = (some a, u) → (∀ bytes : List Byte, bytes.length = 6 → a ≠ .ok bytes) →
        exec .frameRead s = .next { u with
          err := .transport, dstate := .faulted, busReq := false, phase := .idle,
          trace := u.trace ++ [.read 0x38#8 6 a, .rel], resp := u.resp ++ [⟨.transport, .nothing⟩] })) ∧
    (s.phase ≠ .mFrmR → exec .frameRead s = .next s)

/-- The inputs come from their lists, one sample a step, and after the last one they are free draws; taking one changes
nothing else (R72, R76, R262; log 10 for the lists). -/
def Obligations.InputsComeFromTheirLists : Prop :=
  ∀ s : State,
    s.busNext = (s.busIn.head?.getD (Config.freeAnswer s.draws),
      { s with busIn := s.busIn.tail, draws := if s.busIn = [] then s.draws + 1 else s.draws }) ∧
    s.grantNext = (s.grantIn.head?.getD (Config.freeGrant s.draws),
      { s with grantIn := s.grantIn.tail, draws := if s.grantIn = [] then s.draws + 1 else s.draws }) ∧
    s.timerNext = (s.timerIn.head?.getD (Config.freeTimer s.draws),
      { s with timerIn := s.timerIn.tail, draws := if s.timerIn = [] then s.draws + 1 else s.draws })

/-- R62: a step adds no bus transaction but the five, each in its phase, all to 0x38. -/
def Obligations.OnlyTheFiveTransactions : Prop :=
  ∀ (s t : State) (e : Event), step s = .next t → e ∈ newEvents s t → e.isTransaction = true →
    (s.phase = .iRstW ∧ ∃ ok, e = .write 0x38#8 [0xBA#8] ok) ∨
    (s.phase = .iCfgW ∧ ∃ ok, e = .write 0x38#8 [0xE1#8, 0x08#8, 0x00#8] ok) ∨
    (s.phase = .mTrgW ∧ ∃ ok, e = .write 0x38#8 [0xAC#8, 0x33#8, 0x00#8] ok) ∨
    ((s.phase = .iStR ∨ s.phase = .mPollR) ∧ ∃ a, e = .read 0x38#8 1 a) ∨
    (s.phase = .mFrmR ∧ ∃ a, e = .read 0x38#8 6 a)

/-- R72, R298: every bus transaction of a step is made while BUS_REQ = 1. -/
def Obligations.TransactionsHoldTheGrant : Prop :=
  ∀ (s t : State) (e : Event), Inv s → step s = .next t → e ∈ newEvents s t → e.isTransaction = true →
    s.busReq = true

/-! ## Waiting -/

/-- R72, R73: Acquire() raises BUS_REQ and waits, however long, until the arbiter gives the grant. -/
def Obligations.AcquireWaitsForTheGrant : Prop :=
  ∀ (s : State) (n : Nat) (gs : List Bool),
    s.rst = false → s.phase = .iAcq ∨ s.phase = .mAcq → s.grantIn = List.replicate n false ++ true :: gs →
    (∀ k : Nat, 0 < k → k ≤ n →
      run k s = .next { s with busReq := true, grantIn := List.replicate (n - k) false ++ true :: gs }) ∧
    run (n + 1) s = .next { s with
      busReq := true, grantIn := gs, phase := if s.phase = .iAcq then .iRstW else .mTrgW,
      trace := s.trace ++ [.acq] }

/-- R71, R262: each of the four delays waits until its timer says the time has passed, keeps the grant, and then goes on
to the next phase; with an admitted configuration none is shorter than its minimum. -/
def Obligations.DelaysWaitForTheTimer : Prop :=
  ∀ (s u : State), s.rst = false →
    (s.phase = .iRstD ∨ s.phase = .iCfgD ∨ s.phase = .mCnvD ∨ s.phase = .mPollD → s.timerNext = (false, u) →
      step s = .next u) ∧
    (s.timerNext = (true, u) →
      (s.phase = .iRstD → step s = .next { u with
        dstate := .awaitingCalibration, phase := .iCfgW, trace := u.trace ++ [.delay s.cfg.tReset] }) ∧
      (s.phase = .iCfgD → step s = .next { u with phase := .iStR, trace := u.trace ++ [.delay s.cfg.tInit] }) ∧
      (s.phase = .mCnvD → step s = .next { u with phase := .mPollR, trace := u.trace ++ [.delay s.cfg.tConv] }) ∧
      (s.phase = .mPollD → step s = .next { u with
        pollCnt := u.pollCnt + 1, phase := .mPollR, trace := u.trace ++ [.delay s.cfg.tPoll] })) ∧
    (s.cfg.wf = true → 20 ≤ s.cfg.tReset ∧ 10 ≤ s.cfg.tInit ∧ 80 ≤ s.cfg.tConv ∧ 10 ≤ s.cfg.tPoll)

/-- R268: a grant, a delay or an answer that has not come holds the block in its phase; nothing falls through. -/
def Obligations.WaitingPhasesDoNotFallThrough : Prop :=
  ∀ s t : State, s.rst = false → step s = .next t →
    ((s.phase = .iAcq ∨ s.phase = .mAcq) ∧ s.grantNext.1 = false) ∨
    ((s.phase = .iRstD ∨ s.phase = .iCfgD ∨ s.phase = .mCnvD ∨ s.phase = .mPollD) ∧ s.timerNext.1 = false) ∨
    ((s.phase = .iRstW ∨ s.phase = .iCfgW ∨ s.phase = .iStR ∨ s.phase = .mTrgW ∨ s.phase = .mPollR ∨
      s.phase = .mFrmR) ∧ s.busNext.1 = none) →
    t.phase = s.phase ∧ t.dstate = s.dstate ∧ t.trace = s.trace ∧ t.resp = s.resp ∧ t.status = s.status ∧
    t.frame = s.frame ∧ t.pollCnt = s.pollCnt

/-- R143, R268: the busy-poll loop ends, whatever the bus answers: after at most POLL_MAX - POLL_CNT more retry sleeps
the block is in neither of its phases. -/
def Obligations.PollLoopEnds : Prop :=
  ∀ (s : State) (answers : List BusAnswer) (bus : List (Option BusAnswer)) (ts : List Bool),
    Inv s → s.rst = false → s.phase = .mPollR →
    s.busIn = answers.map some ++ bus → s.cfg.pollMax - s.pollCnt < answers.length →
    s.timerIn = List.replicate (s.cfg.pollMax - s.pollCnt) true ++ ts →
    ∃ (n : Nat) (t : State), n ≤ 2 * (s.cfg.pollMax - s.pollCnt) + 1 ∧ run n s = .next t ∧
      t.phase ≠ .mPollR ∧ t.phase ≠ .mPollD

/-- R268, R265: under the three named premises, that every request is granted, every delay ends and every transaction is
answered, a running operation ends. -/
def Obligations.OperationsEndUnderThePremises : Prop :=
  ∀ s : State, Inv s → s.rst = false → s.phase ≠ .idle → pGrant s → pDelay s → pAnswers s →
    ∃ (n : Nat) (t : State), run n s = .next t ∧ t.phase = .idle ∧ t.resp.length = s.resp.length + 1

/-! ## DECODE and the unit conversion -/

/-- R181, R140, R25: DECODE in phase M_DEC writes RAW_H, RAW_T, HUM and TEMP, and ends the READ with the reading (R140); FRAME
then has no value (R25), and that it is a free value drawn by the counter is the model's choice (logs 1, 2). -/
def Obligations.DecodeWritesTheReading : Prop :=
  ∀ s : State, s.phase = .mDec →
    exec .decode s = .next { s with
      rawH := BitVec.ofNat 20 (s.frame.b1.toNat * 2 ^ 12 + s.frame.b2.toNat * 2 ^ 4 + s.frame.b3.toNat / 2 ^ 4),
      rawT := BitVec.ofNat 20 (s.frame.b3.toNat % 2 ^ 4 * 2 ^ 16 + s.frame.b4.toNat * 2 ^ 8 + s.frame.b5.toNat),
      hum := convH (rawHumidity s.frame),
      temp := convT s.cfg.convMode (rawTemperature s.frame),
      rdValid := true, dstate := .ready, busReq := false, phase := .idle,
      frame := Config.freeFrame s.draws, draws := s.draws + 1,
      trace := s.trace ++ [.rel],
      resp := s.resp ++ [⟨.none, .reading (convT s.cfg.convMode (rawTemperature s.frame))
        (convH (rawHumidity s.frame))⟩] }

/-- R182, R183: which bits of the frame are which bits of the two fields, and D0's formulas on naturals. -/
def Obligations.RawFieldsArePackedBigEndian : Prop :=
  ∀ f : Frame,
    (rawHumidity f).extractLsb' 12 8 = f.b1 ∧ (rawHumidity f).extractLsb' 4 8 = f.b2 ∧
    (rawHumidity f).extractLsb' 0 4 = f.b3.extractLsb' 4 4 ∧
    (rawTemperature f).extractLsb' 16 4 = f.b3.extractLsb' 0 4 ∧ (rawTemperature f).extractLsb' 8 8 = f.b4 ∧
    (rawTemperature f).extractLsb' 0 8 = f.b5 ∧
    (rawHumidity f).toNat = (f.b1.toNat <<< 12) ||| (f.b2.toNat <<< 4) ||| (f.b3.toNat >>> 4) ∧
    (rawTemperature f).toNat = ((f.b3.toNat &&& 0x0F) <<< 16) ||| (f.b4.toNat <<< 8) ||| f.b5.toNat

/-- R106: FRAME[0] is received and stored, and not read by DECODE: all 256 values of it give the same next state. -/
def Obligations.FrameByteZeroIsIgnored : Prop :=
  (∀ (s u : State) (f0 f1 f2 f3 f4 f5 : Byte), s.phase = .mFrmR →
    s.busNext = (some (.ok [f0, f1, f2, f3, f4, f5]), u) →
    ∃ t : State, exec .frameRead s = .next t ∧ t.frame.b0 = f0) ∧
  ∀ (s : State) (x : Byte), s.phase = .mDec →
    exec .decode { s with frame := { s.frame with b0 := x } } = exec .decode s

/-- R10: RN32 is the nearest binary32 value, ties to the even significand, for every dyadic rational below 2^127. -/
def Obligations.Rn32IsNearestEven : Prop :=
  ∀ (x : Int) (q : Nat), x.natAbs < 2 ^ (q + 127) →
    (rn32 x q).isFinite = true ∧
    ∀ v : B32, v.isFinite = true →
      ((rn32 x q).scaled * 2 ^ q - x * unitsPerOne).natAbs ≤ (v.scaled * 2 ^ q - x * unitsPerOne).natAbs ∧
      (((rn32 x q).scaled * 2 ^ q - x * unitsPerOne).natAbs = (v.scaled * 2 ^ q - x * unitsPerOne).natAbs →
        v.scaled ≠ (rn32 x q).scaled → (rn32 x q).toNat % 2 = 0)

/-- R185: the humidity is exact below r = 671089, never decreases, and has the end values of the rule. -/
def Obligations.HumidityConversion : Prop :=
  (∀ r : Raw20, r.toNat < 671089 → (convH r).scaled * 2 ^ 18 = 25 * (r.toNat : Int) * unitsPerOne) ∧
  (∀ a b : Raw20, a.toNat ≤ b.toNat → (convH a).scaled ≤ (convH b).scaled) ∧
  convH 0#20 = 0x00000000#32 ∧ convH 524288#20 = 0x42480000#32 ∧ convH 0xFFFFF#20 = 0x42C7FFF4#32

/-- R184: the temperature, rounded once, is exact below r = 933233, never decreases, and has the end values of the
rule. -/
def Obligations.TemperatureConversion : Prop :=
  (∀ r : Raw20, r.toNat < 933233 →
    (convTSingle r).scaled * 2 ^ 17 = (25 * (r.toNat : Int) - 6553600) * unitsPerOne) ∧
  (∀ a b : Raw20, a.toNat ≤ b.toNat → (convTSingle a).scaled ≤ (convTSingle b).scaled) ∧
  convTSingle 0#20 = 0xC2480000#32 ∧ convTSingle 262144#20 = 0x00000000#32 ∧
  convTSingle 0xFFFFF#20 = 0x4315FFF4#32

/-- R186: the stepwise reading of the formula differs from the other for exactly the odd r from 671089 to 933231, each
time by one unit of 2^-17. -/
def Obligations.StepwiseDiffersExactlyThere : Prop :=
  ∀ r : Raw20,
    (convTStepwise r ≠ convTSingle r ↔ r.toNat % 2 = 1 ∧ 671089 ≤ r.toNat ∧ r.toNat ≤ 933231) ∧
    (convTStepwise r ≠ convTSingle r →
      ((convTStepwise r).scaled - (convTSingle r).scaled).natAbs = 2 ^ 132)

/-- R35, R188: whatever the frame and CONV_MODE, TEMP and HUM lie in their exact ranges. -/
def Obligations.ReadingsLieInTheirRange : Prop :=
  ∀ (m : ConvMode) (t h : Raw20), tempInRange (convT m t) ∧ humInRange (convH h)

/-! ## CLASSIFY -/

/-- R200, R205: the three comparisons are strict and exact, a NaN makes its comparison false, and -0 equals +0. The IEEE
comparison is general knowledge by the spec's own mark (log 11). -/
def Obligations.ClassifyComparesStrictly : Prop :=
  ∀ t h lo hi hh : B32,
    ((classify t h lo hi hh).getLsbD 0 = true ↔ t.isNaN = false ∧ lo.isNaN = false ∧ t.scaled < lo.scaled) ∧
    ((classify t h lo hi hh).getLsbD 1 = true ↔ t.isNaN = false ∧ hi.isNaN = false ∧ hi.scaled < t.scaled) ∧
    ((classify t h lo hi hh).getLsbD 2 = true ↔ h.isNaN = false ∧ hh.isNaN = false ∧ hh.scaled < h.scaled) ∧
    B32.scaled 0x80000000#32 = B32.scaled 0x00000000#32 ∧
    (∀ v : B32, v.isFinite = true → B32.scaled 0xFF800000#32 < v.scaled ∧ v.scaled < B32.scaled 0x7F800000#32)

/-- R204, which the spec marks as derived from R200: when high-temp and low-temp can be active together, and when neither
is. -/
def Obligations.TemperatureIndicatorsExclude : Prop :=
  ∀ t h lo hi hh : B32, t.isNaN = false → lo.isNaN = false → hi.isNaN = false →
    (lo.scaled < hi.scaled →
      ¬((classify t h lo hi hh).getLsbD 0 = true ∧ (classify t h lo hi hh).getLsbD 1 = true) ∧
      (((classify t h lo hi hh).getLsbD 0 = false ∧ (classify t h lo hi hh).getLsbD 1 = false) ↔
        lo.scaled ≤ t.scaled ∧ t.scaled ≤ hi.scaled)) ∧
    (hi.scaled < lo.scaled → hi.scaled < t.scaled → t.scaled < lo.scaled →
      (classify t h lo hi hh).getLsbD 0 = true ∧ (classify t h lo hi hh).getLsbD 1 = true) ∧
    (hi.scaled = lo.scaled →
      ¬((classify t h lo hi hh).getLsbD 0 = true ∧ (classify t h lo hi hh).getLsbD 1 = true) ∧
      (((classify t h lo hi hh).getLsbD 0 = false ∧ (classify t h lo hi hh).getLsbD 1 = false) ↔
        t.scaled = lo.scaled))

/-- R201: CLASSIFY answers with the indicator bits of the reading against the thresholds, or with NotReadyError when there
is no valid reading, and writes no register. -/
def Obligations.ClassifyAnswersTheIndicators : Prop :=
  ∀ s : State, s.phase = .idle →
    (s.rdValid = true → exec .classify s = .next { s with
      resp := s.resp ++ [⟨.none, .indicators (classify s.temp s.hum s.thLow s.thHigh s.thHum)⟩] }) ∧
    (s.rdValid = false → exec .classify s = .next { s with resp := s.resp ++ [⟨.notReady, .nothing⟩] })

/-! ## ENCODE -/

/-- R216: ENCODE answers with the two lines, or with NotReadyError when there is no valid reading, and writes no
register. That a valid reading is finite is EncodeRefusesNonFinite's last clause. -/
def Obligations.EncodeAnswersTheLines : Prop :=
  ∀ (s : State) (ts : Nat), s.phase = .idle →
    (s.rdValid = false → exec (.encode ts) s = .next { s with resp := s.resp ++ [⟨.notReady, .nothing⟩] }) ∧
    (s.rdValid = true → s.temp.isFinite = true → s.hum.isFinite = true → ∃ t2 h2 tn hn : List Byte,
      dec s.temp 2 = some t2 ∧ dec s.hum 2 = some h2 ∧
      dec s.temp s.cfg.humanDp = some tn ∧ dec s.hum s.cfg.humanDp = some hn ∧
      exec (.encode ts) s = .next { s with
        resp := s.resp ++ [⟨.none, .lines
          (s.cfg.sPre ++ t2 ++ s.cfg.sMid1 ++ h2 ++ s.cfg.sMid2 ++ udec ts ++ s.cfg.sPost ++ [0x0D#8, 0x0A#8])
          (s.cfg.hPre ++ tn ++ s.cfg.hMid1 ++ hn ++ s.cfg.hMid2 ++ udec ts ++ s.cfg.hPost ++ [0x0D#8, 0x0A#8])⟩] })

/-- R228: `dec` is defined on finite values only, ENCODE of a NaN or an infinity is refused, by name, and it cannot arise
from the registers. -/
def Obligations.EncodeRefusesNonFinite : Prop :=
  (∀ (v : B32) (n : Nat), dec v n = none ↔ v.isFinite = false) ∧
  (∀ (s : State) (ts : Nat), s.phase = .idle → s.rdValid = true →
    s.temp.isFinite = false ∨ s.hum.isFinite = false →
    exec (.encode ts) s = .refused .nonFiniteReading) ∧
  (∀ s : State, Inv s → s.rdValid = true → s.temp.isFinite = true ∧ s.hum.isFinite = true)

/-- R219: dec(v, n) is the exact value times 10^n rounded to the nearest integer, ties to even, with `-` exactly when the
sign bit is 1, no leading zero but the single one before the point, and n digits after it. -/
def Obligations.DecimalsAreRoundedOnceToEven : Prop :=
  ∀ (v : B32) (n : Nat), v.isFinite = true →
    ∃ ip fp : List Byte,
      dec v n = some ((if v.sign then [0x2D#8] else []) ++ (ip ++ (if n = 0 then [] else 0x2E#8 :: fp))) ∧
      plainNumber ip ∧ fp.length = n ∧ fp.all isDigit = true ∧
      2 * ((digitsValue (ip ++ fp) : Int) * unitsPerOne - (v.mag : Int) * 10 ^ n).natAbs ≤ unitsPerOne ∧
      (2 * ((digitsValue (ip ++ fp) : Int) * unitsPerOne - (v.mag : Int) * 10 ^ n).natAbs = unitsPerOne →
        digitsValue (ip ++ fp) % 2 = 0)

/-- R220: udec writes a number's own decimal digits, without sign, leading zero or decimals. -/
def Obligations.UdecReadsBack : Prop :=
  ∀ n : Nat, plainNumber (udec n) ∧ digitsValue (udec n) = n

/-- R229, which the spec marks as derived from R219 and R220: with template segments free of CR and LF, as the default ones are, each line is a single line whose only CR LF
ends it. -/
def Obligations.LinesEndInTheirOnlyCrLf : Prop :=
  Config.built.templatesOk = true ∧ ∀ (c : Config) (t h : B32) (ts : Nat) (sl hl : List Byte),
    c.templatesOk = true → telemetry c t h ts = some (.lines sl hl) →
    ∃ b1 b2 : List Byte,
      sl = b1 ++ [0x0D#8, 0x0A#8] ∧ hl = b2 ++ [0x0D#8, 0x0A#8] ∧
      (0x0D#8 ∉ b1 ∧ 0x0A#8 ∉ b1) ∧ (0x0D#8 ∉ b2 ∧ 0x0A#8 ∉ b2)

/-- R218: every byte of both lines is a 7-bit character code when the template segments are ASCII text, as the default ones
are. The character set is general knowledge by the spec's own mark (log 12). -/
def Obligations.LineBytesAreAscii : Prop :=
  Config.built.asciiOk = true ∧
  ∀ (c : Config) (t h : B32) (ts : Nat) (sl hl : List Byte),
    c.asciiOk = true → telemetry c t h ts = some (.lines sl hl) →
    (∀ b ∈ sl, b.toNat < 0x80) ∧ (∀ b ∈ hl, b.toNat < 0x80)

/-- R221: what every structured template keeps: the three keys in their order, each before its value (log 25), temperature
and humidity with exactly two digits after the point, and one line that ends in CR LF. -/
def Obligations.StructuredLineKeepsItsFields : Prop :=
  Config.built.keysOk = true ∧
  ∀ (c : Config) (t h : B32) (ts : Nat) (sl hl : List Byte),
    c.keysOk = true → c.templatesOk = true → telemetry c t h ts = some (.lines sl hl) →
    ∃ (p1 q1 ti tf p2 q2 hi hf p3 q3 p4 : List Byte),
      sl = (p1 ++ keyTemperature ++ q1 ++ (ti ++ 0x2E#8 :: tf)) ++ (p2 ++ keyHumidity ++ q2 ++ (hi ++ 0x2E#8 :: hf)) ++
        (p3 ++ keyTimestamp ++ q3 ++ udec ts) ++ p4 ++ [0x0D#8, 0x0A#8] ∧
      dec t 2 = some (ti ++ 0x2E#8 :: tf) ∧ dec h 2 = some (hi ++ 0x2E#8 :: hf) ∧
      (tf.length = 2 ∧ tf.all isDigit = true) ∧ (hf.length = 2 ∧ hf.all isDigit = true) ∧
      (0x0D#8 ∉ sl.take (sl.length - 2) ∧ 0x0A#8 ∉ sl.take (sl.length - 2))

/-- R230, which the spec marks as derived: the lengths of the numbers and of the two lines, with the default templates. -/
def Obligations.LinesHaveTheirLengths : Prop :=
  ∀ (c : Config) (t h : B32) (ts : Nat) (sl hl t2 h2 t0 h0 : List Byte),
    c = { Config.built with
      pollMax := c.pollMax, tReset := c.tReset, tInit := c.tInit, tConv := c.tConv, tPoll := c.tPoll,
      tsBits := c.tsBits, convMode := c.convMode } →
    tempInRange t → humInRange h → telemetry c t h ts = some (.lines sl hl) →
    dec t 2 = some t2 → dec h 2 = some h2 → dec t 0 = some t0 → dec h 0 = some h0 →
    (4 ≤ t2.length ∧ t2.length ≤ 6) ∧ (4 ≤ h2.length ∧ h2.length ≤ 6) ∧
    (1 ≤ t0.length ∧ t0.length ≤ 3) ∧ (1 ≤ h0.length ∧ h0.length ≤ 3) ∧
    (ts < 2 ^ 32 → (1 ≤ (udec ts).length ∧ (udec ts).length ≤ 10) ∧
      (52 ≤ sl.length ∧ sl.length ≤ 65) ∧ (45 ≤ hl.length ∧ hl.length ≤ 58)) ∧
    (ts < 2 ^ 64 → (udec ts).length ≤ 20 ∧ sl.length ≤ 75 ∧ hl.length ≤ 68)

/-! ## Errors and the lifecycle -/

/-- R255, R256: the error entry writes ERR, DSTATE, BUS_REQ and PHASE, returns the error, and writes nothing else; the
two fatal errors lead to Faulted and the timeout to Ready. -/
def Obligations.ErrorEntryWritesItsFourRegisters : Prop :=
  ∀ (s : State) (e : ErrKind), e = .transport ∨ e = .calibration ∨ e = .timeout →
    s.raise e = { s with
      err := e, dstate := if e = .timeout then .ready else .faulted, busReq := false, phase := .idle,
      trace := s.trace ++ [.rel], resp := s.resp ++ [⟨e, .nothing⟩] }

/-- R158: the complete transition relation of DSTATE. -/
def Obligations.LifecycleFollowsItsTable : Prop :=
  ∀ s t : State, step s = .next t → t.dstate = lifecycleAfter s (newEvents s t)

/-- R257: from Faulted, nothing but INIT (or reset) has an effect on the block: every other step leaves every register as
it is. -/
def Obligations.FaultedIsLeftOnlyByInit : Prop :=
  ∀ s t : State, Inv s → s.dstate = .faulted → step s = .next t →
    s.rst = true ∨ (∃ o rest, s.hostIn = ⟨0x01#8, o⟩ :: rest ∧ t.dstate = .resetting) ∨
    t = { s with hostIn := s.hostIn.tail, resp := t.resp }

/-- R46, which the spec marks as derived: what holds whenever PHASE = IDLE, in every state that a run can be in. -/
def Obligations.IdleStatesAreConsistent : Prop :=
  ∀ s : State, Reachable s → s.phase = .idle →
    s.busReq = false ∧
    (s.dstate = .uninitialized ∨ s.dstate = .ready ∨ s.dstate = .faulted) ∧
    ((s.rdValid = true ↔ ∃ r, lastDriver s.resp = some r ∧ r.isReading = true) ∧
      (s.rdValid = true → s.dstate = .ready ∧ s.err = .none)) ∧
    (s.err = .none ↔ lastDriver s.resp = none ∨ ∃ r, lastDriver s.resp = some r ∧ r.code = .none) ∧
    (s.dstate = .faulted → s.err = .transport ∨ s.err = .calibration) ∧
    (s.err = .timeout → s.dstate = .ready)

/-- R47: TEMP and HUM are written only in phase M_DEC, after a status byte with the busy flag clear, while the grant is
held. -/
def Obligations.ReadingsComeFromAClearBusyFlag : Prop :=
  ∀ s t : State, Inv s → s.rst = false → step s = .next t → t.temp ≠ s.temp ∨ t.hum ≠ s.hum →
    s.phase = .mDec ∧ s.status.getLsbD 7 = false ∧ s.busReq = true ∧ t.rdValid = true

/-! ## Frames -/

/-- R20: each register is written only by the operations that its row names. ERR, DSTATE and BUS_REQ are written, besides by
the acceptance of INIT and READ and by the end of READ, only by the error entry of a transaction. DECODE's write of FRAME is
the end of its value (R25), a free value of the model's (log 2). -/
def Obligations.RegistersHaveOnlyTheirWriters : Prop :=
  ∀ (i : Instr) (s t : State), exec i s = .next t →
    (t.thLow = s.thLow ∧ t.thHigh = s.thHigh ∧ t.thHum = s.thHum ∧ t.cfg = s.cfg) ∧
    (t.rst = s.rst ∧ t.hostIn = s.hostIn ∧ t.grantIn = s.grantIn ∧ t.timerIn = s.timerIn) ∧
    (i = .classify ∨ (∃ ts, i = .encode ts) → t = { s with resp := t.resp }) ∧
    (t.dstate ≠ s.dstate →
      i = .init ∧ t.dstate = .resetting ∨ i = .read ∧ t.dstate = .measuring ∨ i = .decode ∧ t.dstate = .ready ∨
      i.isTransaction = true ∧ (t.dstate = .faulted ∧ t.err = .transport ∨
        i = .statusRead ∧ t.dstate = .ready ∧ t.err = .timeout)) ∧
    (t.phase ≠ s.phase → i = .init ∨ i = .read ∨ i = .decode ∨ i.isTransaction = true) ∧
    (t.err ≠ s.err →
      (i = .init ∨ i = .read) ∧ t.err = .none ∨
      i.isTransaction = true ∧ (t.dstate = .faulted ∧ t.err = .transport ∨
        i = .statusRead ∧ t.dstate = .ready ∧ t.err = .timeout)) ∧
    (t.busReq ≠ s.busReq → (i = .decode ∨ i.isTransaction = true) ∧ t.busReq = false ∧ t.phase = .idle) ∧
    (t.status ≠ s.status → i = .statusRead) ∧
    (t.frame ≠ s.frame → i = .frameRead ∨ i = .decode) ∧
    (t.rawH ≠ s.rawH ∨ t.rawT ≠ s.rawT ∨ t.temp ≠ s.temp ∨ t.hum ≠ s.hum → i = .decode) ∧
    (t.rdValid ≠ s.rdValid → i = .init ∨ i = .read ∨ i = .decode) ∧
    (t.pollCnt ≠ s.pollCnt → i = .read) ∧
    (i = .init ∨ i = .read → t.busReq = s.busReq ∧ t.busIn = s.busIn ∧ t.trace = s.trace ∧ t.draws = s.draws) ∧
    (t.busIn ≠ s.busIn → i.isTransaction = true)

/-- R31, R33: thresholds and configuration are written by no step at all, reset among them. -/
def Obligations.ConfigurationIsConstant : Prop :=
  ∀ s t : State, step s = .next t →
    t.thLow = s.thLow ∧ t.thHigh = s.thHigh ∧ t.thHum = s.thHum ∧ t.cfg = s.cfg

/-- R20, R29: the host reads DSTATE, ERR, RD_VALID and the thresholds between operations, and nothing while one runs. -/
def Obligations.HostReadsOnlyWhileIdle : Prop :=
  ∀ s : State,
    (s.phase = .idle → s.hostView = some ⟨s.dstate.code, s.err.code, s.rdValid, s.thLow, s.thHigh, s.thHum⟩) ∧
    (s.phase ≠ .idle → s.hostView = none)
end

