-- ==== Sys2Proof/Laws/Binary32.lean ====
section
/-! SUPPORT. Rounding: what `roundHalfEven` and `rn32Mag` give, and how a pattern built by them reads back. -/

namespace Sys2Proof.Machine

/-! ## The integer rounding -/

/-- The rounded quotient is the quotient or one more. -/
theorem roundHalfEven_cases (a b : Nat) :
    roundHalfEven a b = a / b ∨ roundHalfEven a b = a / b + 1 := by
  unfold roundHalfEven; split_ifs <;> simp

/-- A multiple of the divisor is rounded to its exact quotient. -/
theorem roundHalfEven_of_dvd (a b : Nat) (hb : 0 < b) (h : b ∣ a) : roundHalfEven a b = a / b := by
  unfold roundHalfEven
  rw [Nat.mod_eq_zero_of_dvd h]
  simp [hb]

/-- The rounded quotient is at most half a divisor away. -/
theorem roundHalfEven_near (a b : Nat) (hb : 0 < b) :
    2 * roundHalfEven a b * b ≤ 2 * a + b ∧ 2 * a ≤ 2 * roundHalfEven a b * b + b := by
  have hd := Nat.div_add_mod a b
  have hm := Nat.mod_lt a hb
  set q := a / b
  have ha : a = b * q + a % b := hd.symm
  have h1 : 2 * q * b = 2 * (b * q) := by ring
  have h2 : 2 * (q + 1) * b = 2 * (b * q) + 2 * b := by ring
  unfold roundHalfEven
  split_ifs
  · rw [h1]; omega
  · rw [h2]; omega
  · rw [h1]; omega
  · rw [h2]; omega

/-- At exactly half a divisor the result is even. -/
theorem roundHalfEven_tie (a b : Nat) (h : 2 * (a % b) = b) : roundHalfEven a b % 2 = 0 := by
  unfold roundHalfEven
  split_ifs <;> omega

/-- Rounding never reverses an order. -/
theorem roundHalfEven_mono (a a' b : Nat) (h : a ≤ a') : roundHalfEven a b ≤ roundHalfEven a' b := by
  rcases Nat.eq_zero_or_pos b with rfl | hb
  · simp only [roundHalfEven, Nat.mod_zero, Nat.div_zero]
    split_ifs <;> omega
  have hq : a / b ≤ a' / b := Nat.div_le_div_right h
  rcases Nat.lt_or_eq_of_le hq with hlt | heq
  · rcases roundHalfEven_cases a b with h1 | h1 <;> rcases roundHalfEven_cases a' b with h2 | h2 <;> omega
  · have hr : a % b ≤ a' % b := by
      have h1 := Nat.div_add_mod a b
      have h2 := Nat.div_add_mod a' b
      rw [heq] at h1
      omega
    unfold roundHalfEven
    rw [heq]
    split_ifs <;> omega

/-! ## Reading a pattern back -/

/-- The significand and exponent of a pattern, put together as a magnitude. -/
def magOfBits (n : Nat) : Nat :=
  if n / 2 ^ 23 = 0 then n % 2 ^ 23 else (2 ^ 23 + n % 2 ^ 23) * 2 ^ (n / 2 ^ 23 - 1)

theorem magOfBits_small (m : Nat) (h : m < 2 ^ 23) : magOfBits m = m := by
  unfold magOfBits
  rw [Nat.div_eq_of_lt h, Nat.mod_eq_of_lt h]
  simp

/-- A significand `m` under the exponent step `e` (a full significand, or one that carried) reads as `m * 2^e`. -/
theorem magOfBits_step (e m : Nat) (h1 : 2 ^ 23 ≤ m) (h2 : m ≤ 2 ^ 24) : magOfBits (e * 2 ^ 23 + m) = m * 2 ^ e := by
  rcases Nat.lt_or_eq_of_le h2 with h | h
  · have hd : (e * 2 ^ 23 + m) / 2 ^ 23 = e + 1 := by omega
    have hm : (e * 2 ^ 23 + m) % 2 ^ 23 = m - 2 ^ 23 := by omega
    simp only [magOfBits, hd, hm, Nat.add_sub_cancel]
    rw [if_neg (by omega), Nat.add_sub_cancel' h1]
  · subst h
    have hd : (e * 2 ^ 23 + 2 ^ 24) / 2 ^ 23 = e + 2 := by omega
    have hm : (e * 2 ^ 23 + 2 ^ 24) % 2 ^ 23 = 0 := by omega
    simp only [magOfBits, hd, hm]
    rw [if_neg (by omega), show e + 2 - 1 = e + 1 from rfl, pow_succ]
    ring

/-- The sign and the magnitude of a pattern given by its sign and its lower 31 bits. -/
theorem B32.ofBits_fields (neg : Bool) (n : Nat) (h : n < 2 ^ 31) :
    B32.sign (BitVec.ofNat 32 ((if neg then 2 ^ 31 else 0) + n)) = neg ∧
    B32.expo (BitVec.ofNat 32 ((if neg then 2 ^ 31 else 0) + n)) = n / 2 ^ 23 ∧
    B32.mag (BitVec.ofNat 32 ((if neg then 2 ^ 31 else 0) + n)) = magOfBits n := by
  have ht : (BitVec.ofNat 32 ((if neg then 2 ^ 31 else 0) + n)).toNat = (if neg then 2 ^ 31 else 0) + n := by
    rw [BitVec.toNat_ofNat, Nat.mod_eq_of_lt]
    split <;> omega
  have he : B32.expo (BitVec.ofNat 32 ((if neg then 2 ^ 31 else 0) + n)) = n / 2 ^ 23 := by
    unfold B32.expo
    rw [ht]
    cases neg <;> (simp; omega)
  have hf : B32.frac (BitVec.ofNat 32 ((if neg then 2 ^ 31 else 0) + n)) = n % 2 ^ 23 := by
    unfold B32.frac
    rw [ht]
    cases neg
    · simp
    · simp; omega
  refine ⟨?_, he, ?_⟩
  · unfold B32.sign
    rw [BitVec.msb_eq_decide, ht]
    cases neg
    · simp; omega
    · simp
  · unfold B32.mag magOfBits
    rw [he, hf]

/-! ## RN32 of a magnitude -/

theorem rnShift_zero (q : Nat) : rnShift 0 q = 0 := by simp [rnShift]

theorem rn32Mag_zero (q : Nat) : rn32Mag 0 q = 0 := by
  simp [rn32Mag, rnShift_zero, roundHalfEven]

/-- The significand that is rounded has at most 24 bits, and 24 whenever the exponent step is not 0. -/
theorem rnShift_bounds (p q : Nat) :
    p * unitsPerOne < 2 ^ 24 * 2 ^ (q + rnShift p q) ∧
    (rnShift p q ≠ 0 → 2 ^ 23 * 2 ^ (q + rnShift p q) ≤ p * unitsPerOne) := by
  have hq : 0 < 2 ^ q := Nat.two_pow_pos q
  set k := p * unitsPerOne / 2 ^ q with hk
  have hlt : p * unitsPerOne < (k + 1) * 2 ^ q := by
    have := Nat.lt_mul_div_succ (p * unitsPerOne) hq
    rw [← hk] at this
    rwa [Nat.mul_comm (k + 1)]
  have hle : k * 2 ^ q ≤ p * unitsPerOne := Nat.div_mul_le_self _ _
  have hs : rnShift p q = Nat.log2 k - 23 := rfl
  constructor
  · have h1 : k + 1 ≤ 2 ^ (24 + rnShift p q) := by
      have h2 : k < 2 ^ (Nat.log2 k + 1) := Nat.lt_log2_self
      have h3 : 2 ^ (Nat.log2 k + 1) ≤ 2 ^ (24 + rnShift p q) := Nat.pow_le_pow_right (by omega) (by omega)
      omega
    calc p * unitsPerOne < (k + 1) * 2 ^ q := hlt
      _ ≤ 2 ^ (24 + rnShift p q) * 2 ^ q := Nat.mul_le_mul_right _ h1
      _ = 2 ^ 24 * 2 ^ (q + rnShift p q) := by rw [← pow_add, ← pow_add]; congr 1; omega
  · intro hne
    have hk0 : k ≠ 0 := by
      intro h0
      rw [hs, h0] at hne
      simp at hne
    have h1 : 2 ^ (23 + rnShift p q) ≤ k := by
      have h2 : 2 ^ Nat.log2 k ≤ k := Nat.log2_self_le hk0
      have h3 : 23 + rnShift p q = Nat.log2 k := by omega
      rw [h3]
      exact h2
    calc 2 ^ 23 * 2 ^ (q + rnShift p q) = 2 ^ (23 + rnShift p q) * 2 ^ q := by
            rw [← pow_add, ← pow_add]; congr 1; omega
      _ ≤ k * 2 ^ q := Nat.mul_le_mul_right _ h1
      _ ≤ p * unitsPerOne := hle

/-- The significand of `rn32Mag`. -/
def rnSig (p q : Nat) : Nat := roundHalfEven (p * unitsPerOne) (2 ^ (q + rnShift p q))

theorem rnSig_le (p q : Nat) : rnSig p q ≤ 2 ^ 24 := by
  have hb : 0 < 2 ^ (q + rnShift p q) := Nat.two_pow_pos _
  have h := (rnShift_bounds p q).1
  have : p * unitsPerOne / 2 ^ (q + rnShift p q) < 2 ^ 24 := (Nat.div_lt_iff_lt_mul hb).mpr h
  rcases roundHalfEven_cases (p * unitsPerOne) (2 ^ (q + rnShift p q)) with h1 | h1 <;> unfold rnSig <;> omega

theorem rnSig_ge (p q : Nat) (h : rnShift p q ≠ 0) : 2 ^ 23 ≤ rnSig p q := by
  have hb : 0 < 2 ^ (q + rnShift p q) := Nat.two_pow_pos _
  have h2 := (rnShift_bounds p q).2 h
  have : 2 ^ 23 ≤ p * unitsPerOne / 2 ^ (q + rnShift p q) := (Nat.le_div_iff_mul_le hb).mpr h2
  rcases roundHalfEven_cases (p * unitsPerOne) (2 ^ (q + rnShift p q)) with h1 | h1 <;> unfold rnSig <;> omega

/-- Below 2^127 nothing overflows: the pattern is the significand placed above its exponent step, and it is finite. -/
theorem rn32Mag_eq (p q : Nat) (h : p < 2 ^ (q + 127)) :
    rn32Mag p q = rnShift p q * 2 ^ 23 + rnSig p q ∧ rn32Mag p q < 0x7F800000 := by
  have hs : rnShift p q ≤ 252 := by
    have hk : p * unitsPerOne / 2 ^ q < 2 ^ 276 := by
      rw [Nat.div_lt_iff_lt_mul (Nat.two_pow_pos q)]
      calc p * unitsPerOne < 2 ^ (q + 127) * unitsPerOne := Nat.mul_lt_mul_of_pos_right h (Nat.two_pow_pos _)
        _ = 2 ^ 276 * 2 ^ q := by rw [unitsPerOne, ← pow_add, ← pow_add]; congr 1; omega
    rcases Nat.eq_zero_or_pos (p * unitsPerOne / 2 ^ q) with h0 | h0
    · unfold rnShift
      rw [h0]
      simp
    · have := (Nat.log2_lt (by omega)).mpr hk
      unfold rnShift
      omega
  have hm := rnSig_le p q
  have hv : rnShift p q * 2 ^ 23 + rnSig p q < 0x7F800000 := by omega
  unfold rn32Mag
  change min (rnShift p q * 2 ^ 23 + rnSig p q) 0x7F800000 = _ ∧ min (rnShift p q * 2 ^ 23 + rnSig p q) 0x7F800000 < _
  rw [Nat.min_eq_left (by omega)]
  exact ⟨rfl, hv⟩

/-- The magnitude that `rn32Mag` encodes: the rounded significand times its step. -/
theorem magOfBits_rn32Mag (p q : Nat) (h : p < 2 ^ (q + 127)) :
    magOfBits (rn32Mag p q) = rnSig p q * 2 ^ rnShift p q := by
  rw [(rn32Mag_eq p q h).1]
  by_cases h0 : rnShift p q = 0
  · rw [h0]
    have hm := rnSig_le p q
    by_cases h1 : rnSig p q < 2 ^ 23
    · simpa using magOfBits_small _ h1
    · exact magOfBits_step 0 _ (by omega) hm
  · exact magOfBits_step _ _ (rnSig_ge p q h0) (rnSig_le p q)

/-- The exact value of RN32 of `x / 2^q`, below 2^127. -/
theorem scaled_rn32 (x : Int) (q : Nat) (h : x.natAbs < 2 ^ (q + 127)) :
    (rn32 x q).scaled = x.sign * (rnSig x.natAbs q * 2 ^ rnShift x.natAbs q : Nat) := by
  have hb : rn32Mag x.natAbs q < 2 ^ 31 := lt_trans (rn32Mag_eq _ q h).2 (by norm_num)
  obtain ⟨hs, -, hm⟩ := B32.ofBits_fields (decide (x < 0)) (rn32Mag x.natAbs q) hb
  have he : rn32 x q = BitVec.ofNat 32 ((if decide (x < 0) then 2 ^ 31 else 0) + rn32Mag x.natAbs q) := by
    simp [rn32]
  rw [← he] at hs hm
  unfold B32.scaled
  rw [hs, hm, magOfBits_rn32Mag _ q h]
  rcases lt_trichotomy x 0 with hx | hx | hx
  · rw [Int.sign_eq_neg_one_of_neg hx]; simp [hx]
  · subst hx; simp [rnSig, rnShift_zero, roundHalfEven]
  · rw [Int.sign_eq_one_of_pos hx]; simp [Int.not_lt.mpr hx.le]

/-- RN32 below 2^127 is finite. -/
theorem isFinite_rn32 (x : Int) (q : Nat) (h : x.natAbs < 2 ^ (q + 127)) : (rn32 x q).isFinite = true := by
  have hv := (rn32Mag_eq _ q h).2
  obtain ⟨-, he, -⟩ := B32.ofBits_fields (decide (x < 0)) (rn32Mag x.natAbs q) (by omega)
  have heq : rn32 x q = BitVec.ofNat 32 ((if decide (x < 0) then 2 ^ 31 else 0) + rn32Mag x.natAbs q) := by
    simp [rn32]
  rw [← heq] at he
  unfold B32.isFinite
  rw [he]
  simp
  omega

/-- A numerator of at most 24 bits over at most 2^149 is a binary32 value: nothing is rounded. -/
theorem rn32_exact (x : Int) (q : Nat) (h : x.natAbs < 2 ^ 24) (hq : q ≤ 149) :
    (rn32 x q).scaled * 2 ^ q = x * unitsPerOne := by
  have hx : x.natAbs < 2 ^ (q + 127) :=
    lt_of_lt_of_le h (Nat.pow_le_pow_right (by omega) (by omega))
  have hle : q + rnShift x.natAbs q ≤ 149 := by
    by_cases h0 : rnShift x.natAbs q = 0
    · omega
    · have h1 := (rnShift_bounds x.natAbs q).2 h0
      have h2 : 2 ^ 23 * 2 ^ (q + rnShift x.natAbs q) < 2 ^ (24 + 149) :=
        calc 2 ^ 23 * 2 ^ (q + rnShift x.natAbs q) ≤ x.natAbs * unitsPerOne := h1
          _ < 2 ^ 24 * unitsPerOne := Nat.mul_lt_mul_of_pos_right h (Nat.two_pow_pos 149)
          _ = 2 ^ (24 + 149) := by rw [unitsPerOne, ← pow_add]
      rw [← pow_add] at h2
      have h3 := (Nat.pow_lt_pow_iff_right (by omega : 1 < 2)).mp h2
      omega
  have hdvd : 2 ^ (q + rnShift x.natAbs q) ∣ x.natAbs * unitsPerOne :=
    Dvd.dvd.mul_left (pow_dvd_pow 2 hle) _
  have hsig : rnSig x.natAbs q * 2 ^ (q + rnShift x.natAbs q) = x.natAbs * unitsPerOne := by
    unfold rnSig
    rw [roundHalfEven_of_dvd _ _ (Nat.two_pow_pos _) hdvd, Nat.div_mul_cancel hdvd]
  rw [scaled_rn32 x q hx]
  have hcast : ((rnSig x.natAbs q * 2 ^ rnShift x.natAbs q : Nat) : Int) * 2 ^ q = x.natAbs * unitsPerOne := by
    rw [← Nat.cast_mul, ← hsig, pow_add]
    push_cast
    ring
  rw [mul_assoc, hcast, ← mul_assoc, Int.sign_mul_natAbs]

theorem rnShift_mono (p p' q : Nat) (h : p ≤ p') : rnShift p q ≤ rnShift p' q := by
  unfold rnShift
  have h1 : p * unitsPerOne / 2 ^ q ≤ p' * unitsPerOne / 2 ^ q :=
    Nat.div_le_div_right (Nat.mul_le_mul_right _ h)
  have h2 : Nat.log2 (p * unitsPerOne / 2 ^ q) ≤ Nat.log2 (p' * unitsPerOne / 2 ^ q) := by
    rw [Nat.log2_eq_log_two, Nat.log2_eq_log_two]
    exact Nat.log_mono_right h1
  omega

/-- Rounding a magnitude never reverses an order. -/
theorem rnValue_mono (p p' q : Nat) (h : p ≤ p') :
    rnSig p q * 2 ^ rnShift p q ≤ rnSig p' q * 2 ^ rnShift p' q := by
  rcases Nat.lt_or_eq_of_le (rnShift_mono p p' q h) with hs | hs
  · calc rnSig p q * 2 ^ rnShift p q ≤ 2 ^ 24 * 2 ^ rnShift p q := Nat.mul_le_mul_right _ (rnSig_le p q)
      _ = 2 ^ 23 * 2 ^ (rnShift p q + 1) := by rw [pow_succ]; ring
      _ ≤ 2 ^ 23 * 2 ^ rnShift p' q := Nat.mul_le_mul_left _ (Nat.pow_le_pow_right (by omega) hs)
      _ ≤ rnSig p' q * 2 ^ rnShift p' q := Nat.mul_le_mul_right _ (rnSig_ge p' q (by omega))
  · rw [hs]
    apply Nat.mul_le_mul_right
    unfold rnSig
    rw [hs]
    exact roundHalfEven_mono _ _ _ (Nat.mul_le_mul_right _ h)

/-- RN32 never reverses an order, below 2^127. -/
theorem scaled_rn32_mono (x y : Int) (q : Nat) (hx : x.natAbs < 2 ^ (q + 127)) (hy : y.natAbs < 2 ^ (q + 127))
    (h : x ≤ y) : (rn32 x q).scaled ≤ (rn32 y q).scaled := by
  rw [scaled_rn32 x q hx, scaled_rn32 y q hy]
  have hnn : ∀ p : Nat, (0 : Int) ≤ (rnSig p q * 2 ^ rnShift p q : Nat) := fun p => Int.natCast_nonneg _
  rcases lt_trichotomy x 0 with h1 | h1 | h1 <;> rcases lt_trichotomy y 0 with h2 | h2 | h2
  · rw [Int.sign_eq_neg_one_of_neg h1, Int.sign_eq_neg_one_of_neg h2]
    have : (rnSig y.natAbs q * 2 ^ rnShift y.natAbs q : Nat) ≤ rnSig x.natAbs q * 2 ^ rnShift x.natAbs q :=
      rnValue_mono _ _ _ (by omega)
    have hc : ((rnSig y.natAbs q * 2 ^ rnShift y.natAbs q : Nat) : Int) ≤
        (rnSig x.natAbs q * 2 ^ rnShift x.natAbs q : Nat) := by exact_mod_cast this
    linarith
  · rw [Int.sign_eq_neg_one_of_neg h1, h2]
    have := hnn x.natAbs
    simp only [Int.sign_zero, zero_mul]
    linarith
  · rw [Int.sign_eq_neg_one_of_neg h1, Int.sign_eq_one_of_pos h2]
    linarith [hnn x.natAbs, hnn y.natAbs]
  · exact absurd h (by omega)
  · rw [h1, h2]
  · rw [h1, Int.sign_eq_one_of_pos h2]
    simp only [Int.sign_zero, zero_mul, one_mul]
    exact hnn y.natAbs
  · exact absurd h (by omega)
  · exact absurd h (by omega)
  · rw [Int.sign_eq_one_of_pos h1, Int.sign_eq_one_of_pos h2, one_mul, one_mul]
    exact_mod_cast rnValue_mono _ _ _ (by omega)

end Sys2Proof.Machine
end

