-- ==== Sys2Proof/Laws/Fields.lean ====
section
/-! SUPPORT. What the operand forms, the flags and the formatter give, said once: the two raw fields as concatenations of
frame bits, each indicator bit as its comparison, and the lines of a finite reading. -/

namespace Sys2Proof.Machine

/-! ## Raw fields (R66) -/

theorem rawHumidity_eq_append (f : Frame) : rawHumidity f = f.b1 ++ f.b2 ++ f.b3.extractLsb' 4 4 := by
  apply BitVec.eq_of_getLsbD_eq
  intro i hi
  simp only [rawHumidity, BitVec.getLsbD_or, BitVec.getLsbD_shiftLeft, BitVec.getLsbD_ushiftRight,
    BitVec.getLsbD_setWidth, BitVec.getLsbD_append, BitVec.getLsbD_extractLsb']
  interval_cases i <;> simp

theorem rawTemperature_eq_append (f : Frame) : rawTemperature f = f.b3.extractLsb' 0 4 ++ f.b4 ++ f.b5 := by
  apply BitVec.eq_of_getLsbD_eq
  intro i hi
  simp only [rawTemperature, BitVec.getLsbD_or, BitVec.getLsbD_and, BitVec.getLsbD_shiftLeft,
    BitVec.getLsbD_setWidth, BitVec.getLsbD_append, BitVec.getLsbD_extractLsb']
  interval_cases i <;> simp

/-! ## Indicator bits (R38) -/

theorem getLsbD_of_three (a b c : Bool) :
    (BitVec.ofBool a ++ BitVec.ofBool b ++ BitVec.ofBool c).getLsbD 0 = c ∧
    (BitVec.ofBool a ++ BitVec.ofBool b ++ BitVec.ofBool c).getLsbD 1 = b ∧
    (BitVec.ofBool a ++ BitVec.ofBool b ++ BitVec.ofBool c).getLsbD 2 = a := by
  revert a b c
  decide

theorem classify_lowTemp (t h lo hi hh : B32) : (classify t h lo hi hh).getLsbD 0 = B32.lt t lo :=
  (getLsbD_of_three _ _ _).1

theorem classify_highTemp (t h lo hi hh : B32) : (classify t h lo hi hh).getLsbD 1 = B32.lt hi t :=
  (getLsbD_of_three _ _ _).2.1

theorem classify_highHumidity (t h lo hi hh : B32) : (classify t h lo hi hh).getLsbD 2 = B32.lt hh h :=
  (getLsbD_of_three _ _ _).2.2

/-! ## Lines (R216, R228) -/

theorem dec_of_finite (v : B32) (n : Nat) (h : v.isFinite = true) :
    dec v n = some ((if v.sign then [0x2D#8] else []) ++ withPoint n (decDigits (decScaled v n) n)) := by
  simp [dec, h]

theorem dec_of_nonFinite (v : B32) (n : Nat) (h : v.isFinite = false) : dec v n = none := by
  simp [dec, h]

/-- What the formatter answers is a pair of lines. -/
theorem telemetry_eq_some (c : Config) (t h : B32) (ts : Nat) (p : Payload) :
    telemetry c t h ts = some p ↔
      ∃ sl hl, structuredLine c t h ts = some sl ∧ humanLine c t h ts = some hl ∧ p = .lines sl hl := by
  simp only [telemetry, Option.bind_eq_some_iff, Option.map_eq_some_iff]
  constructor
  · rintro ⟨sl, h1, hl, h2, rfl⟩
    exact ⟨sl, hl, h1, h2, rfl⟩
  · rintro ⟨sl, hl, h1, h2, rfl⟩
    exact ⟨sl, h1, hl, h2, rfl⟩

theorem structuredLine_of_dec (c : Config) (t h : B32) (ts : Nat) (dt dh : List Byte)
    (ht : dec t 2 = some dt) (hh : dec h 2 = some dh) :
    structuredLine c t h ts = some (lineOf c.sPre c.sMid1 c.sMid2 c.sPost dt dh (udec ts)) := by
  simp [structuredLine, ht, hh]

theorem humanLine_of_dec (c : Config) (t h : B32) (ts : Nat) (dt dh : List Byte)
    (ht : dec t c.humanDp = some dt) (hh : dec h c.humanDp = some dh) :
    humanLine c t h ts = some (lineOf c.hPre c.hMid1 c.hMid2 c.hPost dt dh (udec ts)) := by
  simp [humanLine, ht, hh]

end Sys2Proof.Machine
end

