-- ==== Sys2Proof/Laws/Decimal.lean ====
section
/-! SUPPORT. What the bytes of a telemetry line can be: the numbers are made of digits, `-` and `.`, a line's bytes are its
segments' and its numbers', and what a template key's check says. -/

namespace Sys2Proof

theorem hasKey_split (key bytes : List Byte) (h : hasKey key bytes = true) : ∃ p q, bytes = p ++ key ++ q := by
  simp only [hasKey, List.any_eq_true, List.mem_tails, List.isPrefixOf_iff_prefix] at h
  obtain ⟨_, ⟨p, rfl⟩, ⟨q, rfl⟩⟩ := h
  exact ⟨p, q, by simp⟩

end Sys2Proof

namespace Sys2Proof.Machine

theorem isDigit_digitByte (d : Nat) (h : d < 10) : isDigit (digitByte d) = true := by
  interval_cases d <;> decide

theorem digitsUpTo_digits (fuel n : Nat) : (digitsUpTo fuel n).all isDigit = true := by
  induction fuel generalizing n with
  | zero => rfl
  | succ f ih =>
    simp only [digitsUpTo]
    split
    · simp [isDigit_digitByte n (by omega)]
    · simp only [List.all_append, ih, List.all_cons, List.all_nil,
        isDigit_digitByte _ (Nat.mod_lt n (by norm_num)), Bool.and_self]

theorem udec_digits (n : Nat) : (udec n).all isDigit = true := digitsUpTo_digits _ _

theorem decDigits_digits (k n : Nat) : (decDigits k n).all isDigit = true := by
  simp only [decDigits, List.all_append, udec_digits, Bool.and_true, List.all_eq_true]
  intro x hx
  obtain ⟨_, rfl⟩ := List.mem_replicate.1 hx
  decide

theorem decDigits_length (k n : Nat) : n + 1 ≤ (decDigits k n).length := by
  simp only [decDigits, List.length_append, List.length_replicate]
  omega

/-- A number is made of digits, `-` and `.` (R219). -/
theorem dec_bytes (v : B32) (n : Nat) (d : List Byte) (h : dec v n = some d) :
    ∀ b ∈ d, isDigit b = true ∨ b = 0x2D#8 ∨ b = 0x2E#8 := by
  simp only [dec] at h
  split at h
  · cases h
    have all := List.all_eq_true.1 (decDigits_digits (decScaled v n) n)
    intro b hb
    rw [List.mem_append] at hb
    rcases hb with hb | hb
    · split at hb <;> simp_all
    · simp only [withPoint] at hb
      split at hb
      · exact .inl (all b hb)
      · simp only [List.mem_append, List.mem_singleton] at hb
        rcases hb with (hb | hb) | hb
        · exact .inl (all b (List.mem_of_mem_take hb))
        · exact .inr (.inr hb)
        · exact .inl (all b (List.mem_of_mem_drop hb))
  · cases h

/-- What holds of the bytes of a line's segments, of its numbers and of CR and LF holds of the line's bytes. -/
theorem lineOf_bytes (pre mid1 mid2 post t h : List Byte) (ts : Nat) (P : Byte → Prop)
    (hpre : ∀ b ∈ pre, P b) (hmid1 : ∀ b ∈ mid1, P b) (hmid2 : ∀ b ∈ mid2, P b) (hpost : ∀ b ∈ post, P b)
    (ht : ∀ b ∈ t, P b) (hh : ∀ b ∈ h, P b) (hts : ∀ b ∈ udec ts, P b) (hend : ∀ b ∈ crlf, P b) :
    ∀ b ∈ lineOf pre mid1 mid2 post t h (udec ts), P b := by
  simp only [lineOf, List.mem_append]
  intro b hb
  rcases hb with ((((((hb | hb) | hb) | hb) | hb) | hb) | hb) | hb
  all_goals solve_by_elim

end Sys2Proof.Machine
end

