-- ==== Sys2Proof/Laws/State.lean ====
section
/-! SUPPORT. One lemma per field per update of the state, each true by rfl, so that no later proof unfolds a record
update. -/

namespace Sys2Proof.Machine

variable (s : State)

/-! ### log -/

@[simp] theorem State.log_dstate (e : Event) : (s.log e).dstate = s.dstate := rfl
@[simp] theorem State.log_phase (e : Event) : (s.log e).phase = s.phase := rfl
@[simp] theorem State.log_err (e : Event) : (s.log e).err = s.err := rfl
@[simp] theorem State.log_status (e : Event) : (s.log e).status = s.status := rfl
@[simp] theorem State.log_frame (e : Event) : (s.log e).frame = s.frame := rfl
@[simp] theorem State.log_rawH (e : Event) : (s.log e).rawH = s.rawH := rfl
@[simp] theorem State.log_rawT (e : Event) : (s.log e).rawT = s.rawT := rfl
@[simp] theorem State.log_temp (e : Event) : (s.log e).temp = s.temp := rfl
@[simp] theorem State.log_hum (e : Event) : (s.log e).hum = s.hum := rfl
@[simp] theorem State.log_rdValid (e : Event) : (s.log e).rdValid = s.rdValid := rfl
@[simp] theorem State.log_pollCnt (e : Event) : (s.log e).pollCnt = s.pollCnt := rfl
@[simp] theorem State.log_busReq (e : Event) : (s.log e).busReq = s.busReq := rfl
@[simp] theorem State.log_thLow (e : Event) : (s.log e).thLow = s.thLow := rfl
@[simp] theorem State.log_thHigh (e : Event) : (s.log e).thHigh = s.thHigh := rfl
@[simp] theorem State.log_thHum (e : Event) : (s.log e).thHum = s.thHum := rfl
@[simp] theorem State.log_cfg (e : Event) : (s.log e).cfg = s.cfg := rfl
@[simp] theorem State.log_rst (e : Event) : (s.log e).rst = s.rst := rfl
@[simp] theorem State.log_hostIn (e : Event) : (s.log e).hostIn = s.hostIn := rfl
@[simp] theorem State.log_grantIn (e : Event) : (s.log e).grantIn = s.grantIn := rfl
@[simp] theorem State.log_timerIn (e : Event) : (s.log e).timerIn = s.timerIn := rfl
@[simp] theorem State.log_busIn (e : Event) : (s.log e).busIn = s.busIn := rfl
@[simp] theorem State.log_draws (e : Event) : (s.log e).draws = s.draws := rfl
@[simp] theorem State.log_trace (e : Event) : (s.log e).trace = s.trace ++ [e] := rfl
@[simp] theorem State.log_resp (e : Event) : (s.log e).resp = s.resp := rfl

/-! ### respond -/

@[simp] theorem State.respond_dstate (c : ErrKind) (p : Payload) : (s.respond c p).dstate = s.dstate := rfl
@[simp] theorem State.respond_phase (c : ErrKind) (p : Payload) : (s.respond c p).phase = s.phase := rfl
@[simp] theorem State.respond_err (c : ErrKind) (p : Payload) : (s.respond c p).err = s.err := rfl
@[simp] theorem State.respond_status (c : ErrKind) (p : Payload) : (s.respond c p).status = s.status := rfl
@[simp] theorem State.respond_frame (c : ErrKind) (p : Payload) : (s.respond c p).frame = s.frame := rfl
@[simp] theorem State.respond_rawH (c : ErrKind) (p : Payload) : (s.respond c p).rawH = s.rawH := rfl
@[simp] theorem State.respond_rawT (c : ErrKind) (p : Payload) : (s.respond c p).rawT = s.rawT := rfl
@[simp] theorem State.respond_temp (c : ErrKind) (p : Payload) : (s.respond c p).temp = s.temp := rfl
@[simp] theorem State.respond_hum (c : ErrKind) (p : Payload) : (s.respond c p).hum = s.hum := rfl
@[simp] theorem State.respond_rdValid (c : ErrKind) (p : Payload) : (s.respond c p).rdValid = s.rdValid := rfl
@[simp] theorem State.respond_pollCnt (c : ErrKind) (p : Payload) : (s.respond c p).pollCnt = s.pollCnt := rfl
@[simp] theorem State.respond_busReq (c : ErrKind) (p : Payload) : (s.respond c p).busReq = s.busReq := rfl
@[simp] theorem State.respond_thLow (c : ErrKind) (p : Payload) : (s.respond c p).thLow = s.thLow := rfl
@[simp] theorem State.respond_thHigh (c : ErrKind) (p : Payload) : (s.respond c p).thHigh = s.thHigh := rfl
@[simp] theorem State.respond_thHum (c : ErrKind) (p : Payload) : (s.respond c p).thHum = s.thHum := rfl
@[simp] theorem State.respond_cfg (c : ErrKind) (p : Payload) : (s.respond c p).cfg = s.cfg := rfl
@[simp] theorem State.respond_rst (c : ErrKind) (p : Payload) : (s.respond c p).rst = s.rst := rfl
@[simp] theorem State.respond_hostIn (c : ErrKind) (p : Payload) : (s.respond c p).hostIn = s.hostIn := rfl
@[simp] theorem State.respond_grantIn (c : ErrKind) (p : Payload) : (s.respond c p).grantIn = s.grantIn := rfl
@[simp] theorem State.respond_timerIn (c : ErrKind) (p : Payload) : (s.respond c p).timerIn = s.timerIn := rfl
@[simp] theorem State.respond_busIn (c : ErrKind) (p : Payload) : (s.respond c p).busIn = s.busIn := rfl
@[simp] theorem State.respond_draws (c : ErrKind) (p : Payload) : (s.respond c p).draws = s.draws := rfl
@[simp] theorem State.respond_trace (c : ErrKind) (p : Payload) : (s.respond c p).trace = s.trace := rfl
@[simp] theorem State.respond_resp (c : ErrKind) (p : Payload) : (s.respond c p).resp = s.resp ++ [⟨c, p⟩] := rfl

/-! ### release -/

@[simp] theorem State.release_dstate : s.release.dstate = s.dstate := rfl
@[simp] theorem State.release_phase : s.release.phase = s.phase := rfl
@[simp] theorem State.release_err : s.release.err = s.err := rfl
@[simp] theorem State.release_status : s.release.status = s.status := rfl
@[simp] theorem State.release_frame : s.release.frame = s.frame := rfl
@[simp] theorem State.release_rawH : s.release.rawH = s.rawH := rfl
@[simp] theorem State.release_rawT : s.release.rawT = s.rawT := rfl
@[simp] theorem State.release_temp : s.release.temp = s.temp := rfl
@[simp] theorem State.release_hum : s.release.hum = s.hum := rfl
@[simp] theorem State.release_rdValid : s.release.rdValid = s.rdValid := rfl
@[simp] theorem State.release_pollCnt : s.release.pollCnt = s.pollCnt := rfl
@[simp] theorem State.release_busReq : s.release.busReq = false := rfl
@[simp] theorem State.release_thLow : s.release.thLow = s.thLow := rfl
@[simp] theorem State.release_thHigh : s.release.thHigh = s.thHigh := rfl
@[simp] theorem State.release_thHum : s.release.thHum = s.thHum := rfl
@[simp] theorem State.release_cfg : s.release.cfg = s.cfg := rfl
@[simp] theorem State.release_rst : s.release.rst = s.rst := rfl
@[simp] theorem State.release_hostIn : s.release.hostIn = s.hostIn := rfl
@[simp] theorem State.release_grantIn : s.release.grantIn = s.grantIn := rfl
@[simp] theorem State.release_timerIn : s.release.timerIn = s.timerIn := rfl
@[simp] theorem State.release_busIn : s.release.busIn = s.busIn := rfl
@[simp] theorem State.release_draws : s.release.draws = s.draws := rfl
@[simp] theorem State.release_trace : s.release.trace = s.trace ++ [.rel] := rfl
@[simp] theorem State.release_resp : s.release.resp = s.resp := rfl

/-! ### raise -/

@[simp] theorem State.raise_dstate (e : ErrKind) : (s.raise e).dstate = e.stateAfter := rfl
@[simp] theorem State.raise_phase (e : ErrKind) : (s.raise e).phase = .idle := rfl
@[simp] theorem State.raise_err (e : ErrKind) : (s.raise e).err = e := rfl
@[simp] theorem State.raise_status (e : ErrKind) : (s.raise e).status = s.status := rfl
@[simp] theorem State.raise_frame (e : ErrKind) : (s.raise e).frame = s.frame := rfl
@[simp] theorem State.raise_rawH (e : ErrKind) : (s.raise e).rawH = s.rawH := rfl
@[simp] theorem State.raise_rawT (e : ErrKind) : (s.raise e).rawT = s.rawT := rfl
@[simp] theorem State.raise_temp (e : ErrKind) : (s.raise e).temp = s.temp := rfl
@[simp] theorem State.raise_hum (e : ErrKind) : (s.raise e).hum = s.hum := rfl
@[simp] theorem State.raise_rdValid (e : ErrKind) : (s.raise e).rdValid = s.rdValid := rfl
@[simp] theorem State.raise_pollCnt (e : ErrKind) : (s.raise e).pollCnt = s.pollCnt := rfl
@[simp] theorem State.raise_busReq (e : ErrKind) : (s.raise e).busReq = false := rfl
@[simp] theorem State.raise_thLow (e : ErrKind) : (s.raise e).thLow = s.thLow := rfl
@[simp] theorem State.raise_thHigh (e : ErrKind) : (s.raise e).thHigh = s.thHigh := rfl
@[simp] theorem State.raise_thHum (e : ErrKind) : (s.raise e).thHum = s.thHum := rfl
@[simp] theorem State.raise_cfg (e : ErrKind) : (s.raise e).cfg = s.cfg := rfl
@[simp] theorem State.raise_rst (e : ErrKind) : (s.raise e).rst = s.rst := rfl
@[simp] theorem State.raise_hostIn (e : ErrKind) : (s.raise e).hostIn = s.hostIn := rfl
@[simp] theorem State.raise_grantIn (e : ErrKind) : (s.raise e).grantIn = s.grantIn := rfl
@[simp] theorem State.raise_timerIn (e : ErrKind) : (s.raise e).timerIn = s.timerIn := rfl
@[simp] theorem State.raise_busIn (e : ErrKind) : (s.raise e).busIn = s.busIn := rfl
@[simp] theorem State.raise_draws (e : ErrKind) : (s.raise e).draws = s.draws := rfl
@[simp] theorem State.raise_trace (e : ErrKind) : (s.raise e).trace = s.trace ++ [.rel] := rfl
@[simp] theorem State.raise_resp (e : ErrKind) : (s.raise e).resp = s.resp ++ [⟨e, .nothing⟩] := rfl

/-! ### finish -/

@[simp] theorem State.finish_dstate (p : Payload) : (s.finish p).dstate = .ready := rfl
@[simp] theorem State.finish_phase (p : Payload) : (s.finish p).phase = .idle := rfl
@[simp] theorem State.finish_err (p : Payload) : (s.finish p).err = s.err := rfl
@[simp] theorem State.finish_status (p : Payload) : (s.finish p).status = s.status := rfl
@[simp] theorem State.finish_frame (p : Payload) : (s.finish p).frame = s.frame := rfl
@[simp] theorem State.finish_rawH (p : Payload) : (s.finish p).rawH = s.rawH := rfl
@[simp] theorem State.finish_rawT (p : Payload) : (s.finish p).rawT = s.rawT := rfl
@[simp] theorem State.finish_temp (p : Payload) : (s.finish p).temp = s.temp := rfl
@[simp] theorem State.finish_hum (p : Payload) : (s.finish p).hum = s.hum := rfl
@[simp] theorem State.finish_rdValid (p : Payload) : (s.finish p).rdValid = s.rdValid := rfl
@[simp] theorem State.finish_pollCnt (p : Payload) : (s.finish p).pollCnt = s.pollCnt := rfl
@[simp] theorem State.finish_busReq (p : Payload) : (s.finish p).busReq = false := rfl
@[simp] theorem State.finish_thLow (p : Payload) : (s.finish p).thLow = s.thLow := rfl
@[simp] theorem State.finish_thHigh (p : Payload) : (s.finish p).thHigh = s.thHigh := rfl
@[simp] theorem State.finish_thHum (p : Payload) : (s.finish p).thHum = s.thHum := rfl
@[simp] theorem State.finish_cfg (p : Payload) : (s.finish p).cfg = s.cfg := rfl
@[simp] theorem State.finish_rst (p : Payload) : (s.finish p).rst = s.rst := rfl
@[simp] theorem State.finish_hostIn (p : Payload) : (s.finish p).hostIn = s.hostIn := rfl
@[simp] theorem State.finish_grantIn (p : Payload) : (s.finish p).grantIn = s.grantIn := rfl
@[simp] theorem State.finish_timerIn (p : Payload) : (s.finish p).timerIn = s.timerIn := rfl
@[simp] theorem State.finish_busIn (p : Payload) : (s.finish p).busIn = s.busIn := rfl
@[simp] theorem State.finish_draws (p : Payload) : (s.finish p).draws = s.draws := rfl
@[simp] theorem State.finish_trace (p : Payload) : (s.finish p).trace = s.trace ++ [.rel] := rfl
@[simp] theorem State.finish_resp (p : Payload) : (s.finish p).resp = s.resp ++ [⟨.none, p⟩] := rfl

/-! ### notReady -/

@[simp] theorem State.notReady_dstate : s.notReady.dstate = s.dstate := rfl
@[simp] theorem State.notReady_phase : s.notReady.phase = s.phase := rfl
@[simp] theorem State.notReady_err : s.notReady.err = s.err := rfl
@[simp] theorem State.notReady_status : s.notReady.status = s.status := rfl
@[simp] theorem State.notReady_frame : s.notReady.frame = s.frame := rfl
@[simp] theorem State.notReady_rawH : s.notReady.rawH = s.rawH := rfl
@[simp] theorem State.notReady_rawT : s.notReady.rawT = s.rawT := rfl
@[simp] theorem State.notReady_temp : s.notReady.temp = s.temp := rfl
@[simp] theorem State.notReady_hum : s.notReady.hum = s.hum := rfl
@[simp] theorem State.notReady_rdValid : s.notReady.rdValid = s.rdValid := rfl
@[simp] theorem State.notReady_pollCnt : s.notReady.pollCnt = s.pollCnt := rfl
@[simp] theorem State.notReady_busReq : s.notReady.busReq = s.busReq := rfl
@[simp] theorem State.notReady_thLow : s.notReady.thLow = s.thLow := rfl
@[simp] theorem State.notReady_thHigh : s.notReady.thHigh = s.thHigh := rfl
@[simp] theorem State.notReady_thHum : s.notReady.thHum = s.thHum := rfl
@[simp] theorem State.notReady_cfg : s.notReady.cfg = s.cfg := rfl
@[simp] theorem State.notReady_rst : s.notReady.rst = s.rst := rfl
@[simp] theorem State.notReady_hostIn : s.notReady.hostIn = s.hostIn := rfl
@[simp] theorem State.notReady_grantIn : s.notReady.grantIn = s.grantIn := rfl
@[simp] theorem State.notReady_timerIn : s.notReady.timerIn = s.timerIn := rfl
@[simp] theorem State.notReady_busIn : s.notReady.busIn = s.busIn := rfl
@[simp] theorem State.notReady_draws : s.notReady.draws = s.draws := rfl
@[simp] theorem State.notReady_trace : s.notReady.trace = s.trace := rfl
@[simp] theorem State.notReady_resp : s.notReady.resp = s.resp ++ [⟨.notReady, .nothing⟩] := rfl

/-! ### forgetFrame -/

@[simp] theorem State.forgetFrame_dstate : s.forgetFrame.dstate = s.dstate := rfl
@[simp] theorem State.forgetFrame_phase : s.forgetFrame.phase = s.phase := rfl
@[simp] theorem State.forgetFrame_err : s.forgetFrame.err = s.err := rfl
@[simp] theorem State.forgetFrame_status : s.forgetFrame.status = s.status := rfl
@[simp] theorem State.forgetFrame_frame : s.forgetFrame.frame = Config.freeFrame s.draws := rfl
@[simp] theorem State.forgetFrame_rawH : s.forgetFrame.rawH = s.rawH := rfl
@[simp] theorem State.forgetFrame_rawT : s.forgetFrame.rawT = s.rawT := rfl
@[simp] theorem State.forgetFrame_temp : s.forgetFrame.temp = s.temp := rfl
@[simp] theorem State.forgetFrame_hum : s.forgetFrame.hum = s.hum := rfl
@[simp] theorem State.forgetFrame_rdValid : s.forgetFrame.rdValid = s.rdValid := rfl
@[simp] theorem State.forgetFrame_pollCnt : s.forgetFrame.pollCnt = s.pollCnt := rfl
@[simp] theorem State.forgetFrame_busReq : s.forgetFrame.busReq = s.busReq := rfl
@[simp] theorem State.forgetFrame_thLow : s.forgetFrame.thLow = s.thLow := rfl
@[simp] theorem State.forgetFrame_thHigh : s.forgetFrame.thHigh = s.thHigh := rfl
@[simp] theorem State.forgetFrame_thHum : s.forgetFrame.thHum = s.thHum := rfl
@[simp] theorem State.forgetFrame_cfg : s.forgetFrame.cfg = s.cfg := rfl
@[simp] theorem State.forgetFrame_rst : s.forgetFrame.rst = s.rst := rfl
@[simp] theorem State.forgetFrame_hostIn : s.forgetFrame.hostIn = s.hostIn := rfl
@[simp] theorem State.forgetFrame_grantIn : s.forgetFrame.grantIn = s.grantIn := rfl
@[simp] theorem State.forgetFrame_timerIn : s.forgetFrame.timerIn = s.timerIn := rfl
@[simp] theorem State.forgetFrame_busIn : s.forgetFrame.busIn = s.busIn := rfl
@[simp] theorem State.forgetFrame_draws : s.forgetFrame.draws = s.draws + 1 := rfl
@[simp] theorem State.forgetFrame_trace : s.forgetFrame.trace = s.trace := rfl
@[simp] theorem State.forgetFrame_resp : s.forgetFrame.resp = s.resp := rfl

/-! ### storeStatus -/

@[simp] theorem State.storeStatus_dstate (b : List Byte) : (s.storeStatus b).dstate = s.dstate := rfl
@[simp] theorem State.storeStatus_phase (b : List Byte) : (s.storeStatus b).phase = s.phase := rfl
@[simp] theorem State.storeStatus_err (b : List Byte) : (s.storeStatus b).err = s.err := rfl
@[simp] theorem State.storeStatus_status (b : List Byte) : (s.storeStatus b).status = b.getD 0 0 := rfl
@[simp] theorem State.storeStatus_frame (b : List Byte) : (s.storeStatus b).frame = s.frame := rfl
@[simp] theorem State.storeStatus_rawH (b : List Byte) : (s.storeStatus b).rawH = s.rawH := rfl
@[simp] theorem State.storeStatus_rawT (b : List Byte) : (s.storeStatus b).rawT = s.rawT := rfl
@[simp] theorem State.storeStatus_temp (b : List Byte) : (s.storeStatus b).temp = s.temp := rfl
@[simp] theorem State.storeStatus_hum (b : List Byte) : (s.storeStatus b).hum = s.hum := rfl
@[simp] theorem State.storeStatus_rdValid (b : List Byte) : (s.storeStatus b).rdValid = s.rdValid := rfl
@[simp] theorem State.storeStatus_pollCnt (b : List Byte) : (s.storeStatus b).pollCnt = s.pollCnt := rfl
@[simp] theorem State.storeStatus_busReq (b : List Byte) : (s.storeStatus b).busReq = s.busReq := rfl
@[simp] theorem State.storeStatus_thLow (b : List Byte) : (s.storeStatus b).thLow = s.thLow := rfl
@[simp] theorem State.storeStatus_thHigh (b : List Byte) : (s.storeStatus b).thHigh = s.thHigh := rfl
@[simp] theorem State.storeStatus_thHum (b : List Byte) : (s.storeStatus b).thHum = s.thHum := rfl
@[simp] theorem State.storeStatus_cfg (b : List Byte) : (s.storeStatus b).cfg = s.cfg := rfl
@[simp] theorem State.storeStatus_rst (b : List Byte) : (s.storeStatus b).rst = s.rst := rfl
@[simp] theorem State.storeStatus_hostIn (b : List Byte) : (s.storeStatus b).hostIn = s.hostIn := rfl
@[simp] theorem State.storeStatus_grantIn (b : List Byte) : (s.storeStatus b).grantIn = s.grantIn := rfl
@[simp] theorem State.storeStatus_timerIn (b : List Byte) : (s.storeStatus b).timerIn = s.timerIn := rfl
@[simp] theorem State.storeStatus_busIn (b : List Byte) : (s.storeStatus b).busIn = s.busIn := rfl
@[simp] theorem State.storeStatus_draws (b : List Byte) : (s.storeStatus b).draws = s.draws := rfl
@[simp] theorem State.storeStatus_trace (b : List Byte) : (s.storeStatus b).trace = s.trace := rfl
@[simp] theorem State.storeStatus_resp (b : List Byte) : (s.storeStatus b).resp = s.resp := rfl

/-! ### decodeFrame -/

@[simp] theorem State.decodeFrame_dstate : s.decodeFrame.dstate = s.dstate := rfl
@[simp] theorem State.decodeFrame_phase : s.decodeFrame.phase = s.phase := rfl
@[simp] theorem State.decodeFrame_err : s.decodeFrame.err = s.err := rfl
@[simp] theorem State.decodeFrame_status : s.decodeFrame.status = s.status := rfl
@[simp] theorem State.decodeFrame_frame : s.decodeFrame.frame = s.frame := rfl
@[simp] theorem State.decodeFrame_rawH : s.decodeFrame.rawH = rawHumidity s.frame := rfl
@[simp] theorem State.decodeFrame_rawT : s.decodeFrame.rawT = rawTemperature s.frame := rfl
@[simp] theorem State.decodeFrame_temp : s.decodeFrame.temp = convT s.cfg.convMode (rawTemperature s.frame) := rfl
@[simp] theorem State.decodeFrame_hum : s.decodeFrame.hum = convH (rawHumidity s.frame) := rfl
@[simp] theorem State.decodeFrame_rdValid : s.decodeFrame.rdValid = s.rdValid := rfl
@[simp] theorem State.decodeFrame_pollCnt : s.decodeFrame.pollCnt = s.pollCnt := rfl
@[simp] theorem State.decodeFrame_busReq : s.decodeFrame.busReq = s.busReq := rfl
@[simp] theorem State.decodeFrame_thLow : s.decodeFrame.thLow = s.thLow := rfl
@[simp] theorem State.decodeFrame_thHigh : s.decodeFrame.thHigh = s.thHigh := rfl
@[simp] theorem State.decodeFrame_thHum : s.decodeFrame.thHum = s.thHum := rfl
@[simp] theorem State.decodeFrame_cfg : s.decodeFrame.cfg = s.cfg := rfl
@[simp] theorem State.decodeFrame_rst : s.decodeFrame.rst = s.rst := rfl
@[simp] theorem State.decodeFrame_hostIn : s.decodeFrame.hostIn = s.hostIn := rfl
@[simp] theorem State.decodeFrame_grantIn : s.decodeFrame.grantIn = s.grantIn := rfl
@[simp] theorem State.decodeFrame_timerIn : s.decodeFrame.timerIn = s.timerIn := rfl
@[simp] theorem State.decodeFrame_busIn : s.decodeFrame.busIn = s.busIn := rfl
@[simp] theorem State.decodeFrame_draws : s.decodeFrame.draws = s.draws := rfl
@[simp] theorem State.decodeFrame_trace : s.decodeFrame.trace = s.trace := rfl
@[simp] theorem State.decodeFrame_resp : s.decodeFrame.resp = s.resp := rfl

end Sys2Proof.Machine
end

