-- ==== Sys2Proof/Laws/Ops.lean ====
section
/-! SUPPORT. What each shared operation can do, said once: a lemma per input, per primitive and per way of ending. -/

namespace Sys2Proof.Machine

/-! ## Inputs -/

theorem State.busNext_listed (s : State) (a : Option BusAnswer) (rest : List (Option BusAnswer))
    (h : s.busIn = a :: rest) : s.busNext = (a, { s with busIn := rest }) := by
  simp [State.busNext, h]

theorem State.grantNext_listed (s : State) (g : Bool) (rest : List Bool) (h : s.grantIn = g :: rest) :
    s.grantNext = (g, { s with grantIn := rest }) := by
  simp [State.grantNext, h]

theorem State.timerNext_listed (s : State) (d : Bool) (rest : List Bool) (h : s.timerIn = d :: rest) :
    s.timerNext = (d, { s with timerIn := rest }) := by
  simp [State.timerNext, h]

/-- Taking a bus answer changes the list of answers and the count of draws, and nothing else. -/
theorem State.busNext_frame (s : State) :
    ∃ b d, s.busNext.2 = { s with busIn := b, draws := d } := by
  cases h : s.busIn with
  | nil => exact ⟨s.busIn, s.draws + 1, by simp [State.busNext, h]⟩
  | cons a rest => exact ⟨rest, s.draws, by simp [State.busNext, h]⟩

theorem State.grantNext_frame (s : State) :
    ∃ g d, s.grantNext.2 = { s with grantIn := g, draws := d } := by
  cases h : s.grantIn with
  | nil => exact ⟨s.grantIn, s.draws + 1, by simp [State.grantNext, h]⟩
  | cons a rest => exact ⟨rest, s.draws, by simp [State.grantNext, h]⟩

theorem State.timerNext_frame (s : State) :
    ∃ t d, s.timerNext.2 = { s with timerIn := t, draws := d } := by
  cases h : s.timerIn with
  | nil => exact ⟨s.timerIn, s.draws + 1, by simp [State.timerNext, h]⟩
  | cons a rest => exact ⟨rest, s.draws, by simp [State.timerNext, h]⟩

/-! ## Primitives -/

/-- Acquire() ends in one of two ways: the grant is there, or the block waits with BUS_REQ raised. -/
theorem State.acquire_cases (s : State) (p : Phase) :
    ∃ g d, s.acquire p = { s with busReq := true, grantIn := g, draws := d, phase := p, trace := s.trace ++ [.acq] } ∨
      s.acquire p = { s with busReq := true, grantIn := g, draws := d } := by
  obtain ⟨g, d, h⟩ := State.grantNext_frame { s with busReq := true }
  refine ⟨g, d, ?_⟩
  unfold State.acquire
  split <;> rename_i t e <;> rw [e] at h <;> simp at h <;> simp [h, State.log]

/-- Delay(ms) ends in one of two ways: the time has passed, or the block waits. -/
theorem State.delay_cases (s : State) (ms : Nat) (f : State → State) :
    ∃ t d, s.delay ms f = f { s with timerIn := t, draws := d, trace := s.trace ++ [.delay ms] } ∨
      s.delay ms f = { s with timerIn := t, draws := d } := by
  obtain ⟨t, d, h⟩ := State.timerNext_frame s
  refine ⟨t, d, ?_⟩
  unfold State.delay
  split <;> rename_i u e <;> rw [e] at h <;> simp at h <;> simp [h, State.log]

/-- BusWrite ends in one of three ways: ok, `fail`, no answer yet. -/
theorem State.busWrite_cases (s : State) (bytes : List Byte) (f : State → State) :
    ∃ b d, s.busWrite bytes f =
        f { s with busIn := b, draws := d, trace := s.trace ++ [.write devAddr bytes true] } ∨
      s.busWrite bytes f =
        State.raise .transport { s with busIn := b, draws := d, trace := s.trace ++ [.write devAddr bytes false] } ∨
      s.busWrite bytes f = { s with busIn := b, draws := d } := by
  obtain ⟨b, d, h⟩ := State.busNext_frame s
  refine ⟨b, d, ?_⟩
  unfold State.busWrite
  split <;> rename_i u e <;> rw [e] at h <;> simp at h <;> simp [h, State.log]

/-- BusRead ends in one of three ways: as many bytes as asked for, a failure, no answer yet. -/
theorem State.busRead_cases (s : State) (count : Nat) (f : List Byte → State → State) :
    ∃ b d, (∃ bytes, bytes.length = count ∧ s.busRead count f =
        f bytes { s with busIn := b, draws := d, trace := s.trace ++ [.read devAddr count (.ok bytes)] }) ∨
      (∃ a, (Event.read devAddr count a).failed = true ∧ s.busRead count f =
        State.raise .transport { s with busIn := b, draws := d, trace := s.trace ++ [.read devAddr count a] }) ∨
      s.busRead count f = { s with busIn := b, draws := d } := by
  obtain ⟨b, d, h⟩ := State.busNext_frame s
  refine ⟨b, d, ?_⟩
  unfold State.busRead
  split
  · rename_i bytes u e
    rw [e] at h
    simp only at h
    subst h
    by_cases hl : bytes.length = count
    · exact .inl ⟨bytes, hl, by simp [hl, State.log]⟩
    · exact .inr (.inl ⟨.ok bytes, by simp [Event.failed, hl], by simp [hl, State.log]⟩)
  · rename_i u e
    rw [e] at h
    simp only at h
    subst h
    exact .inr (.inl ⟨.fail, rfl, rfl⟩)
  · rename_i u e
    rw [e] at h
    exact .inr (.inr h)

/-! ## Responses -/

@[simp] theorem lastDriver_append (resp : List Response) (r : Response) :
    lastDriver (resp ++ [r]) = if r.endsDriverOperation then some r else lastDriver resp := by
  by_cases h : r.endsDriverOperation = true <;> simp [lastDriver, List.filter_append, h]

/-! ## Running -/

@[simp] theorem run_zero (s : State) : run 0 s = .next s := rfl

/-- One step, then the rest of the run. -/
theorem run_step (n : Nat) (s : State) :
    run (n + 1) s = match step s with
      | .next t => run n t
      | .fault r => .fault r
      | .refused r => .refused r := by
  have h := Host.Core.run.eq_2 Sys2Proof.core s n
  have hs : Sys2Proof.core.step s = step s := rfl
  rw [hs] at h
  refine Eq.trans h ?_
  cases step s <;> rfl

theorem run_succ (n : Nat) (s t : State) (h : step s = .next t) : run (n + 1) s = run n t := by
  rw [run_step, h]

/-- Runs compose: `m` steps to `t`, then `n` steps from `t`. -/
theorem run_add (m n : Nat) (s t : State) (h : run m s = .next t) : run (m + n) s = run n t := by
  induction m generalizing s with
  | zero =>
    have hst : s = t := by simpa using h
    simp [hst]
  | succ m ih =>
    cases hs : step s with
    | next u =>
      rw [run_succ m s u hs] at h
      rw [Nat.succ_add, run_succ (m + n) s u hs]
      exact ih u h
    | fault r => exact r.casesOn
    | refused r => rw [run_step, hs] at h; cases h

/-- What a run from a reachable state leads to is reachable. -/
theorem Reachable.run (n : Nat) (s t : State) (hs : Reachable s) (h : Machine.run n s = .next t) : Reachable t := by
  induction n generalizing s with
  | zero =>
    have hst : s = t := by simpa using h
    exact hst ▸ hs
  | succ n ih =>
    cases hu : Machine.step s with
    | next u =>
      rw [run_succ n s u hu] at h
      exact ih u (.step s u hs hu) h
    | fault r => exact r.casesOn
    | refused r =>
      rw [run_step, hu] at h
      cases h

/-- An idle block with nothing presented stays as it is, however long it runs (R21). -/
theorem run_idle (n : Nat) (s : State) (hr : s.rst = false) (hp : s.phase = .idle) (hh : s.hostIn = []) :
    Machine.run n s = .next s := by
  have hs : Machine.step s = .next s := by simp [Machine.step, State.select, State.selectIdle, hr, hp, hh]
  induction n with
  | zero => rfl
  | succ n ih => rw [run_succ n s s hs, ih]

end Sys2Proof.Machine
end

