-- ==== Sys2Proof/Laws/PerInstr.lean ====
section
/-! SUPPORT. One lemma per operation: the word of a well-formed operation is one of the words that its number, in
the numbering of spec/opcode_table.json, can stand for. So no operand bit is lost between the two forms. -/

namespace Sys2Proof.Laws.TableWord

/-- The operation's word, written as the table's number and read again, is among what that number can stand for. -/
def Statement (i : Instr) : Prop :=
  i.wf tableTsBits = true → encode i ∈ OpWord.ofTable (encode i).toTable.1 (encode i).toTable.2

theorem init : Statement .init := by
  intro _
  decide

theorem read : Statement .read := by
  intro _
  decide

theorem classify : Statement .classify := by
  intro _
  decide

theorem encode (ts : Nat) : Statement (.encode ts) := by
  intro h
  have hts : ts < 4294967296 := of_decide_eq_true h
  have hlt : 4 * 4294967296 + ts < 1099511627776 := by omega
  have hdiv : (4 * 4294967296 + ts) / 4294967296 = 4 := by omega
  have hmod : ts % 4294967296 = ts := Nat.mod_eq_of_lt hts
  simp [Sys2Proof.encode, OpWord.toTable, OpWord.ofTable, hmod, hlt, hdiv, Nat.add_mod]

theorem softReset : Statement .softReset := by
  intro _
  decide

theorem initCfg : Statement .initCfg := by
  intro _
  decide

theorem trigger : Statement .trigger := by
  intro _
  decide

theorem statusRead : Statement .statusRead := by
  intro _
  decide

theorem frameRead : Statement .frameRead := by
  intro _
  decide

theorem decode : Statement .decode := by
  intro _
  decide

end Sys2Proof.Laws.TableWord
end

