-- ==== Sys2Proof/Machine/HostGlue.lean ====
section
/-! DEFINITION. The pseudo-operations of rule R112, expansions of D0's excluded main loop that a host performs and the
block does not implement: which operations the host presents, given what the block answered. -/

namespace Sys2Proof.Machine

/-- The presentations of a list of host operations (R111); what is no host operation is presented nowhere. -/
def hostWords : List Instr → List HostWord
  | [] => []
  | i :: rest =>
    match encode i with
    | .host w => w :: hostWords rest
    | .command _ | .answer _ | .stored _ => hostWords rest

/-- BOOT = INIT (R112). -/
def bootOps : List Instr := [.init]

/-- CYCLE begins with READ (R112). -/
def cycleFirst : List Instr := [.read]

/-- What CYCLE presents after its READ answered: CLASSIFY and ENCODE ts if it returned OK, else nothing more in this
cycle (R112). -/
def cycleRest (ts : Nat) (answer : Response) : List Instr :=
  if answer.code = .none then [.classify, .encode ts] else []

end Sys2Proof.Machine
end

