-- ==== Sys2Proof/Tests/Slice0.lean ====
section
/-! SUPPORT. The model's own tests. Expected values come from spec/95_test_vectors.md (named in each comment), from the
encodings of spec/30_encoding.md, or from a rule worked by hand. Then a witness for the hypotheses of each obligation. -/

namespace Sys2Proof.Tests

open Sys2Proof Sys2Proof.Machine

/-! ## Well-formedness: each check refuses an ill-formed term -/

/-- The configuration of the test vectors (95_test_vectors.md, preamble), POLL_MAX aside. -/
def cfg (pollMax : Nat) : Config :=
  { Config.built with pollMax := pollMax, tReset := 20, tInit := 10, tConv := 80, tPoll := 10 }

theorem test_wf_admits_the_vectors_configuration : (cfg 5).wf = true := by decide
theorem test_wf_refuses_wide_timestamp :
    (Instr.encode (2 ^ 32)).wf 32 = false ∧ (Instr.encode (2 ^ 32 - 1)).wf 32 = true := by decide
theorem test_wf_refuses_short_delays :
    ({ cfg 5 with tReset := 19 }).wf = false ∧ ({ cfg 5 with tInit := 9 }).wf = false ∧
    ({ cfg 5 with tConv := 79 }).wf = false ∧ ({ cfg 5 with tPoll := 9 }).wf = false := by decide
theorem test_wf_refuses_three_decimals : ({ cfg 5 with humanDp := 3 }).wf = false := by decide
theorem test_wf_refuses_cr_in_structured_segments :
    ({ cfg 5 with sPre := [0x0D#8] }).wf = false ∧ ({ cfg 5 with sMid1 := [0x0A#8] }).wf = false ∧
    ({ cfg 5 with sMid2 := [0x0D#8] }).wf = false ∧ ({ cfg 5 with sPost := [0x0A#8] }).wf = false := by decide
theorem test_wf_refuses_lf_in_human_segments :
    ({ cfg 5 with hPre := [0x0A#8] }).wf = false ∧ ({ cfg 5 with hMid1 := [0x0D#8] }).wf = false ∧
    ({ cfg 5 with hMid2 := [0x0A#8] }).wf = false ∧ ({ cfg 5 with hPost := [0x0D#8] }).wf = false := by decide

theorem test_wf_refuses_other_than_ascii :
    ({ cfg 5 with sPost := [0x80#8] }).wf = false ∧ ({ cfg 5 with hMid1 := [0xC3#8, 0xA9#8] }).wf = false ∧
    ({ cfg 5 with sPost := [0x7F#8] }).wf = true := by decide
/-- R221: a segment without its key, and two keys in the other order. -/
theorem test_wf_refuses_missing_keys :
    ({ cfg 5 with sPre := [0x7B#8] }).wf = false ∧ ({ cfg 5 with sMid2 := [0x2C#8] }).wf = false ∧
    ({ cfg 5 with sPre := (cfg 5).sMid1, sMid1 := (cfg 5).sPre }).wf = false := by decide

/-! ## Decoding: words written out from 30_encoding.md, rules R91 to R96 -/

theorem test_decode_init : decodeTableWord 8 0b00000001 = some .init := by decide
theorem test_decode_read : decodeTableWord 8 0b00000010 = some .read := by decide
theorem test_decode_classify : decodeTableWord 8 0b00000011 = some .classify := by decide
/-- P1's ENCODE ts=12345; 12345 = 0x3039. -/
theorem test_decode_encode :
    decodeTableWord 40 0b0000010000000000000000000011000000111001 = some (.encode 12345) := by decide
theorem test_decode_soft_reset : decodeTableWord 8 0b10111010 = some .softReset := by decide
theorem test_decode_init_cfg : decodeTableWord 24 0b111000010000100000000000 = some .initCfg := by decide
theorem test_decode_trigger : decodeTableWord 24 0b101011000011001100000000 = some .trigger := by decide
/-- R1 -> [88] (R153). -/
theorem test_decode_status_read : decode 32 (.answer [0b10001000#8]) = .ok .statusRead := by decide
/-- R6 -> [00,19,99,9A,66,66] (R154). -/
theorem test_decode_frame_read :
    decode 32 (.answer [0x00#8, 0x19#8, 0x99#8, 0x9A#8, 0x66#8, 0x66#8]) = .ok .frameRead := by decide
theorem test_decode_decode :
    decode 32 (.stored [0x00#8, 0x19#8, 0x99#8, 0x9A#8, 0x66#8, 0x66#8]) = .ok .decode := by decide
/-- The table's row of ENCODE has 40 bits, its other host rows 8 (log 5). -/
theorem test_decode_by_the_rows_lengths :
    decodeTableWord 8 0x04 = some .statusRead ∧ decodeTableWord 40 0x0100000000 = none ∧
    decodeTableWord 40 0x0400000000 = some (.encode 0) := by decide
/-- R108, R109, R61: other codes, other parameter bytes, other lengths. -/
theorem test_decode_rejects_by_name :
    decode 32 (.host ⟨0x05#8, 0⟩) = .error (.unknownHostCode 0x05#8) ∧
    decode 32 (.command [0xE1#8, 0x08#8, 0x01#8]) = .error .notACommand ∧
    decode 32 (.answer [0x08#8, 0x08#8]) = .error (.wrongLength 2) := by decide

/-! ## Units: 95_test_vectors.md L2-C to L2-G -/

/-- C8. -/
theorem test_fields_of_the_frame :
    rawHumidity ⟨0x00, 0x12, 0x34, 0x56, 0x78, 0x9A⟩ = 0x12345#20 ∧
    rawTemperature ⟨0x00, 0x12, 0x34, 0x56, 0x78, 0x9A⟩ = 0x6789A#20 := by decide
/-- L2-D, rows 671089 and 699051, 933235. -/
theorem test_conversions :
    convH 671089#20 = 0x42800004#32 ∧ convTSingle 671089#20 = 0x429C0009#32 ∧
    convTStepwise 671089#20 = 0x429C0008#32 ∧ convTSingle 699051#20 = 0x42A6AAB3#32 ∧
    convTSingle 933235#20 = 0x4300001E#32 := by decide +kernel
/-- E9, E12, E14, E15. -/
theorem test_classify_vectors :
    classify 0x41480000 0x428BFFFE 0x41A00000 0x41C80000 0x42700000 = 0b101#3 ∧
    classify 0x41B00000 0x42480000 0x41C80000 0x41A00000 0x42700000 = 0b011#3 ∧
    classify 0x41B00000 0x42480000 0x7FC00000 0x41C80000 0x7FC00000 = 0b000#3 ∧
    classify 0x00000000 0x42480000 0x80000000 0x80000000 0x42700000 = 0b000#3 := by decide
/-- L2-F: -43.75 with one decimal prints -43.8 (tie to even), 9.375 with two prints 9.38, tiny negative prints -0.00. -/
theorem test_decimal_vectors :
    dec 0xC22F0000 1 = some [0x2D#8, 0x34#8, 0x33#8, 0x2E#8, 0x38#8] ∧
    dec 0x41160000 2 = some [0x39#8, 0x2E#8, 0x33#8, 0x38#8] ∧
    dec 0xB9480000 2 = some [0x2D#8, 0x30#8, 0x2E#8, 0x30#8, 0x30#8] ∧
    dec 0x42160000 0 = some [0x33#8, 0x38#8] := by decide +kernel

/-! ## One step of each operation -/

/-- A state with every field written out: just initialised, nothing presented. -/
def idleAt (d : DState) : State where
  dstate := d
  phase := .idle
  err := .none
  status := 0x08
  frame := ⟨0, 0, 0, 0, 0, 0⟩
  rawH := 0
  rawT := 0
  temp := 0
  hum := 0
  rdValid := false
  pollCnt := 0
  busReq := false
  thLow := 0x41A00000
  thHigh := 0x41C80000
  thHum := 0x42700000
  cfg := cfg 2
  rst := false
  hostIn := []
  grantIn := []
  timerIn := []
  busIn := []
  draws := 1
  trace := []
  resp := []

/-- The same in a phase of an operation, with the grant held and these bus answers to come. -/
def running (d : DState) (p : Phase) (bus : List (Option BusAnswer)) : State :=
  { idleAt d with phase := p, busReq := true, busIn := bus }

/-- D0's frame, after FRAME_READ (L1-4). -/
def decoding : State :=
  { running .measuring .mDec [] with status := 0x00, frame := ⟨0x00, 0x19, 0x99, 0x9A, 0x66, 0x66⟩ }

/-- Ready with the reading of L1-4. -/
def withReading : State :=
  { idleAt .ready with
    rawH := 0x19999, rawT := 0xA6666, temp := 0x429FFFF6, hum := 0x411FFFC4, rdValid := true
    resp := [⟨.none, .reading 0x429FFFF6 0x411FFFC4⟩] }

/-- The state after an outcome, looked at through `f`. -/
def seen {α : Type} (f : State → α) : Host.Outcome State Fault Refusal → Option α
  | .next t => some (f t)
  | .fault _ => none
  | .refused _ => none

/-- R131: accept. -/
theorem test_init_accepted :
    seen (fun t => (t.dstate, t.phase, t.rdValid)) (exec .init withReading) = some (.resetting, .iAcq, false) := by
  decide
/-- R140: accept, and B17's refusal. -/
theorem test_read_accepted_and_refused :
    seen (fun t => (t.dstate, t.phase, t.rdValid)) (exec .read withReading) = some (.measuring, .mAcq, false) ∧
    seen (fun t => (t.dstate, t.phase, t.resp)) (exec .read (idleAt .faulted)) =
      some (.faulted, .idle, [⟨.notReady, .nothing⟩]) := by
  decide
/-- P1: IND = 0b010. -/
theorem test_classify :
    seen (fun t => t.resp.getLast?) (exec .classify withReading) = some (some ⟨.none, .indicators 0b010⟩) := by
  decide
/-- G1, byte for byte. -/
theorem test_encode :
    seen (fun t => t.resp.getLast?) (exec (.encode 12345) withReading) = some (some ⟨.none, .lines
      [0x7B, 0x22, 0x74, 0x65, 0x6D, 0x70, 0x65, 0x72, 0x61, 0x74, 0x75, 0x72, 0x65, 0x22, 0x3A,
       0x38, 0x30, 0x2E, 0x30, 0x30,
       0x2C, 0x22, 0x68, 0x75, 0x6D, 0x69, 0x64, 0x69, 0x74, 0x79, 0x22, 0x3A,
       0x31, 0x30, 0x2E, 0x30, 0x30,
       0x2C, 0x22, 0x74, 0x69, 0x6D, 0x65, 0x73, 0x74, 0x61, 0x6D, 0x70, 0x22, 0x3A,
       0x31, 0x32, 0x33, 0x34, 0x35, 0x7D, 0x0D, 0x0A]
      [0x54, 0x65, 0x6D, 0x70, 0x65, 0x72, 0x61, 0x74, 0x75, 0x72, 0x65, 0x3A, 0x20,
       0x38, 0x30,
       0x20, 0x43, 0x2C, 0x20, 0x48, 0x75, 0x6D, 0x69, 0x64, 0x69, 0x74, 0x79, 0x3A, 0x20,
       0x31, 0x30,
       0x20, 0x25, 0x2C, 0x20, 0x54, 0x69, 0x6D, 0x65, 0x3A, 0x20,
       0x31, 0x32, 0x33, 0x34, 0x35, 0x20, 0x6D, 0x73, 0x0D, 0x0A]⟩) := by
  decide +kernel
/-- A1 and A8, first transaction. -/
theorem test_soft_reset :
    seen (fun t => (t.phase, t.trace)) (exec .softReset (running .resetting .iRstW [some (.ok [])])) =
      some (.iRstD, [.write 0x38 [0xBA] true]) ∧
    seen (fun t => (t.dstate, t.err, t.trace)) (exec .softReset (running .resetting .iRstW [some .fail])) =
      some (.faulted, .transport, [.write 0x38 [0xBA] false, .rel]) := by
  decide
/-- A1 and A9, second transaction. -/
theorem test_init_cfg :
    seen (fun t => (t.phase, t.trace)) (exec .initCfg (running .awaitingCalibration .iCfgW [some (.ok [])])) =
      some (.iCfgD, [.write 0x38 [0xE1, 0x08, 0x00] true]) ∧
    seen (fun t => (t.dstate, t.err)) (exec .initCfg (running .awaitingCalibration .iCfgW [some .fail])) =
      some (.faulted, .transport) := by
  decide
/-- B1 and B9, first transaction. -/
theorem test_trigger :
    seen (fun t => (t.phase, t.trace)) (exec .trigger (running .measuring .mTrgW [some (.ok [])])) =
      some (.mCnvD, [.write 0x38 [0xAC, 0x33, 0x00] true]) ∧
    seen (fun t => (t.dstate, t.err)) (exec .trigger (running .measuring .mTrgW [some .fail])) =
      some (.faulted, .transport) := by
  decide
/-- A11: two bytes where one was asked for. -/
theorem test_status_read_of_init :
    seen (fun t => (t.phase, t.status)) (exec .statusRead (running .awaitingCalibration .iStR [some (.ok [0x88])])) =
      some (.iChk, 0x88) ∧
    seen (fun t => (t.err, t.status)) (exec .statusRead
      (running .awaitingCalibration .iStR [some (.ok [0x08, 0x08])])) = some (.transport, 0x08) := by
  decide
/-- B3's last busy answer against P3's third, both with POLL_MAX = 2. -/
theorem test_status_read_of_read :
    seen (fun t => (t.phase, t.dstate)) (exec .statusRead
      { running .measuring .mPollR [some (.ok [0x88])] with pollCnt := 1 }) = some (.mPollD, .measuring) ∧
    seen (fun t => (t.dstate, t.err, t.busReq)) (exec .statusRead
      { running .measuring .mPollR [some (.ok [0xFF])] with pollCnt := 2 }) = some (.ready, .timeout, false) := by
  decide
/-- B15 and B14. -/
theorem test_frame_read :
    seen (fun t => (t.phase, t.frame)) (exec .frameRead
      (running .measuring .mFrmR [some (.ok [0x80, 0x19, 0x99, 0x9A, 0x66, 0x66])])) =
      some (.mDec, ⟨0x80, 0x19, 0x99, 0x9A, 0x66, 0x66⟩) ∧
    seen (fun t => (t.dstate, t.err)) (exec .frameRead
      (running .measuring .mFrmR [some (.ok [0x80, 0x19, 0x99, 0x9A, 0x66])])) = some (.faulted, .transport) := by
  decide
/-- L1-4 and P1's end state. -/
theorem test_decode_operation :
    seen (fun t => (t.rawH, t.rawT, t.temp, t.hum)) (exec .decode decoding) =
      some (0x19999, 0xA6666, 0x429FFFF6, 0x411FFFC4) ∧
    seen (fun t => (t.dstate, t.rdValid, t.busReq, t.resp)) (exec .decode decoding) =
      some (.ready, true, false, [⟨.none, .reading 0x429FFFF6 0x411FFFC4⟩]) := by
  decide +kernel
/-- R22, R30: the codes. -/
theorem test_codes :
    DState.faulted.code = 0b111 ∧ DState.measuring.code = 0b100 ∧ ErrKind.timeout.code = 3 ∧
    ErrKind.notReady.code = 4 := by
  decide
/-- H7 and L2-I: a reset is not a response. -/
theorem test_reset_asserted :
    seen (fun t => (t.dstate, t.rdValid, t.trace, t.resp)) (step { withReading with rst := true }) =
      some (.uninitialized, false, [], []) := by
  decide
/-- L2-I's first operations, and each row of the table that decodeTableWord can give, as the first step after reset. -/
theorem test_first_step_after_reset :
    [(8, 0x01), (8, 0x02), (8, 0x03), (40, 0x0400000000), (8, 0xBA), (24, 0xE10800), (24, 0xAC3300), (8, 0x00), (48, 0)].map
      (fun w => seen (fun t => (t.phase, t.resp)) (step (State.reset.withFetchWord w.1 w.2))) =
    [some (.iAcq, []), some (.idle, [⟨.notReady, .nothing⟩]), some (.idle, [⟨.notReady, .nothing⟩]),
     some (.idle, [⟨.notReady, .nothing⟩]), some (.iRstD, []), some (.iCfgD, []), some (.mCnvD, []), some (.iChk, []),
     some (.mDec, [])] := by
  decide
/-- A word of no row runs nothing: parameter byte 0x01 (R109), whose low byte alone would be INIT's code. -/
theorem test_placed_word_of_no_row :
    seen (fun t => (t.dstate, t.phase, t.hostIn, t.resp)) (step ((idleAt .ready).withFetchWord 24 0xE10801)) =
      some (.ready, .idle, [], []) := by decide
/-- R77, P_DONE with POLL_MAX = 1: met by a clear byte within two status reads; not by two busy bytes, a failed read, a
read of a wrong length (R61), or none. -/
theorem test_premise_done :
    (∀ after ∈ [[.read 0x38 1 (.ok [0x08])], [.read 0x38 1 (.ok [0x80]), .delay 10, .read 0x38 1 (.ok [0x00])]],
      pDone 1 (.write 0x38 [0xAC, 0x33, 0x00] true :: .delay 80 :: after) = true) ∧
    ∀ after ∈ [[.read 0x38 1 (.ok [0x80]), .delay 10, .read 0x38 1 (.ok [0x80]), .read 0x38 1 (.ok [0x00])],
        [.read 0x38 1 .fail, .rel], [.read 0x38 1 (.ok [0x80]), .delay 10, .read 0x38 1 .fail, .rel],
        [.read 0x38 1 (.ok [0x00, 0x00]), .rel], []],
      pDone 1 (.write 0x38 [0xAC, 0x33, 0x00] true :: .delay 80 :: after) = false := by decide

/-- R77, P_CAL looks at a status byte's bit 3; a read that failed, by a wrong length too (R61), gave none. -/
theorem test_premise_cal :
    [BusAnswer.ok [0x08], .ok [0x00], .fail, .ok [0x00, 0x00]].map (fun a =>
      pCal [.write 0x38 [0xBA] true, .delay 20, .write 0x38 [0xE1, 0x08, 0x00] true, .delay 10, .read 0x38 1 a]) =
    [true, false, true, true] := by decide

/-- R77 on P1's READ: its frame is fresh for the conversion it carries and for no other; a frame whose own busy bit is set
is not; a read of a wrong length is no `ok` (R61). -/
theorem test_premises :
    pFresh (fun _ => [0x19, 0x99, 0x9A, 0x66, 0x66]) [.acq, .write 0x38 [0xAC, 0x33, 0x00] true, .delay 80,
      .read 0x38 1 (.ok [0x00]), .read 0x38 6 (.ok [0x00, 0x19, 0x99, 0x9A, 0x66, 0x66]), .rel] = true ∧
    pFresh (fun n => [BitVec.ofNat 8 n, 0, 0, 0, 0]) [.write 0x38 [0xAC, 0x33, 0x00] true, .read 0x38 1 (.ok [0x00]),
      .read 0x38 6 (.ok [0x00, 0x00, 0x00, 0x00, 0x00, 0x00])] = false ∧
    pFresh (fun _ => [0, 0, 0, 0, 0]) [.read 0x38 1 (.ok [0x00]), .read 0x38 6 (.ok [0x80, 0, 0, 0, 0, 0])] = false ∧
    pBusOk [.read 0x38 1 (.ok [0x08, 0x08])] = false ∧ pBusOk [.read 0x38 1 (.ok [0x08])] = true := by decide
/-- R112: CYCLE goes on after OK only. -/
theorem test_cycle :
    hostWords (cycleFirst ++ cycleRest 7 ⟨.none, .reading 0 0⟩) = [⟨0x02, 0⟩, ⟨0x03, 0⟩, ⟨0x04, 7⟩] ∧
    hostWords (cycleFirst ++ cycleRest 7 ⟨.timeout, .nothing⟩) = [⟨0x02, 0⟩] := by
  decide

/-! ## Witnesses: for each obligation with hypotheses, a state and operands that meet them together -/

/-- A witness of the invariant with a valid reading, where its clauses say most. -/
theorem witness_inv_with_a_reading : Inv withReading := by
  constructor <;> first | decide | skip
  intro _
  exact ⟨rfl, rfl, ⟨by decide, by decide, by decide⟩, ⟨by decide, by decide, by decide⟩⟩

theorem witness_inv_faulted :
    Inv { idleAt .faulted with err := .transport, resp := [⟨.transport, .nothing⟩] } := by
  constructor <;> first | decide | (intro h; exact absurd h (by decide))

theorem witness_inv_polling (bus : List (Option BusAnswer)) (ts : List Bool) :
    Inv { running .measuring .mPollR bus with timerIn := ts } := by
  constructor <;> simp [running, idleAt, Phase.holdsBus, Phase.lifecycles, cfg]

theorem witness_inv_frame_read (bus : List (Option BusAnswer)) :
    Inv { running .measuring .mFrmR bus with status := 0x00 } := by
  constructor <;> simp [running, idleAt, Phase.holdsBus, Phase.lifecycles, cfg, busyFlag]

theorem witness_inv_decoding : Inv decoding := by
  constructor <;> simp [decoding, running, idleAt, Phase.holdsBus, Phase.lifecycles, cfg, busyFlag]

/-- ResetLeavesUninitialized: reset while a READ runs. -/
theorem witness_reset_asserted : ({ decoding with rst := true }).rst = true := rfl

/-- StepKeepsTheInvariant, StepNeverStops: from a reading, a READ is presented. -/
theorem witness_step_from_the_invariant :
    Inv { withReading with hostIn := [⟨0x02, 0⟩] } ∧
    (seen (fun t => t.phase) (step { withReading with hostIn := [⟨0x02, 0⟩] }) = some .mAcq) := by
  refine ⟨?_, by decide⟩
  obtain ⟨⟩ := witness_inv_with_a_reading
  constructor <;> assumption

/-- StepRunsTheDecodedHostOperation: ENCODE with its widest operand, and INIT. -/
theorem witness_decoded_host_operation :
    decode (cfg 2).tsBits (.host ⟨0x04, 4294967295⟩) = .ok (.encode 4294967295) ∧
    decode (cfg 2).tsBits (.host ⟨0x01, 0⟩) = .ok .init ∧
    ({ withReading with hostIn := [⟨0x04, 4294967295⟩] }).hostIn = [⟨0x04, 4294967295⟩] ∧
    withReading.rst = false ∧ withReading.phase = .idle := by decide

/-- StepRunsThePhasesOperation, WireCommandsSendTheirBytes, StatusReadStoresItsByte, FrameReadStoresSixBytes,
FrameByteZeroIsIgnored, DecodeWritesTheReading: each phase, with each kind of answer. -/
theorem witness_phases_and_answers (p : Phase) (a : BusAnswer) (d : DState) :
    (running d p [some a]).rst = false ∧ (running d p [some a]).phase = p ∧
    (running d p [some a]).busNext = (some a, running d p []) := ⟨rfl, rfl, rfl⟩

/-- StepRunsThePlacedWord: both ends of the operand, and a row without an operand. -/
theorem witness_placed_word :
    (decodeTableWord 40 0x0400000000 = some (.encode 0) ∧ (Instr.encode 0).wf (cfg 2).tsBits = true) ∧
    (decodeTableWord 40 0x04FFFFFFFF = some (.encode 4294967295) ∧
      (Instr.encode 4294967295).wf (cfg 2).tsBits = true) ∧
    (decodeTableWord 24 0xAC3300 = some .trigger ∧ Instr.trigger.wf (cfg 2).tsBits = true) := by decide

/-- UnknownHostCodeChangesNothing: the codes next to the four, and the largest. -/
theorem witness_unknown_codes :
    ∀ c ∈ [0x00#8, 0x05#8, 0xFF#8], c ≠ 0x01#8 ∧ c ≠ 0x02#8 ∧ c ≠ 0x03#8 ∧ c ≠ 0x04#8 := by decide

/-- HostIsNotHeardWhileRunning, WaitingPhasesDoNotFallThrough: running phases that wait, on each of the three agents. -/
theorem witness_waiting :
    (seen (fun t => t.phase) (step { running .resetting .iAcq [] with grantIn := [false] }) = some .iAcq) ∧
    (seen (fun t => t.phase) (step { running .measuring .mPollD [] with timerIn := [false] }) = some .mPollD) ∧
    (seen (fun t => t.phase) (step (running .measuring .mFrmR [none])) = some .mFrmR) ∧
    ({ running .resetting .iAcq [] with grantIn := [false] }).grantNext.1 = false ∧
    ({ running .measuring .mPollD [] with timerIn := [false] }).timerNext.1 = false ∧
    (running .measuring .mFrmR [none]).busNext.1 = none ∧
    Phase.iAcq ≠ .idle ∧ (running .measuring .mFrmR [none]).rst = false := by decide

/-- IdleBlockWaitsForTheHost. -/
theorem witness_idle : withReading.rst = false ∧ withReading.phase = .idle ∧ withReading.hostIn = [] := by decide

/-- DecodeAndEncodeAgree: each of its three clauses. -/
theorem witness_decode_and_encode :
    (Instr.encode 4294967295).wf 32 = true ∧ decode 32 (.command [0xBA]) = .ok .softReset ∧
    decode 32 (.host ⟨0x04, 4294967296⟩) = .ok (.encode 0) := by decide

/-- InitIsAccepted. -/
theorem witness_init_accepted :
    ∀ d ∈ [DState.uninitialized, .ready, .faulted], (idleAt d).phase = .idle ∧ (idleAt d).dstate = d := by decide

/-- What InitRunsByItsTable assumes of the state and the inputs, for these bus answers. -/
def initState (bus : List (Option BusAnswer)) : State :=
  { idleAt .uninitialized with hostIn := [⟨0x01, 0⟩], grantIn := [true], timerIn := [true, true], busIn := bus }

/-- InitRunsByItsTable: its hypotheses, and A8, A9, A10, A1 and A5 in its four clauses. -/
theorem witness_init_table :
    (∀ bus, (initState bus).rst = false ∧ (initState bus).phase = .idle ∧ (initState bus).dstate = .uninitialized ∧
      (initState bus).hostIn = [⟨0x01, 0⟩] ∧ (initState bus).grantIn = true :: [] ∧
      (initState bus).timerIn = true :: true :: [] ∧ (initState bus).busIn = bus) ∧
    seen (fun t => (t.dstate, t.err)) (run 3 (initState [some .fail])) = some (.faulted, .transport) ∧
    seen (fun t => (t.dstate, t.err)) (run 5 (initState [some (.ok []), some .fail])) = some (.faulted, .transport) ∧
    seen (fun t => (t.dstate, t.err)) (run 7 (initState [some (.ok []), some (.ok []), some .fail])) =
      some (.faulted, .transport) ∧
    seen (fun t => (t.dstate, t.err)) (run 8 (initState [some (.ok []), some (.ok []), some (.ok [0x08])])) =
      some (.ready, .none) ∧
    seen (fun t => (t.dstate, t.err)) (run 8 (initState [some (.ok []), some (.ok []), some (.ok [0xF7])])) =
      some (.faulted, .calibration) :=
  ⟨fun _ => ⟨rfl, rfl, rfl, rfl, rfl, rfl, rfl⟩, by decide, by decide, by decide, by decide, by decide⟩

/-- CalibrationBitAloneDecidesInit. -/
theorem witness_check : (running .awaitingCalibration .iChk []).rst = false ∧
    (running .awaitingCalibration .iChk []).phase = .iChk := by decide

/-- ReadIsAccepted, and RefusedOperationsChangeNothing in both its clauses. -/
theorem witness_accept_and_refuse :
    ((idleAt .ready).phase = .idle ∧ (idleAt .ready).dstate = .ready) ∧
    ((idleAt .faulted).phase = .idle ∧ (idleAt .faulted).dstate = .faulted) ∧
    ((idleAt .uninitialized).phase = .idle ∧ (idleAt .uninitialized).dstate = .uninitialized) ∧
    ((idleAt .ready).phase = .idle ∧ (idleAt .ready).rdValid = false) := by decide

/-- What ReadRunsByItsTable assumes, for so many busy answers and these bus answers. -/
def readState (pollMax busy : Nat) (bus : List (Option BusAnswer)) : State :=
  { idleAt .ready with
    cfg := cfg pollMax, hostIn := [⟨0x02, 0⟩], grantIn := [true], timerIn := List.replicate (busy + 1) true
    busIn := bus }

/-- ReadRunsByItsTable: its hypotheses, and B9, B5 (POLL_MAX = 0), B4 (POLL_MAX = 1), B12, B13 in its clauses. -/
theorem witness_read_table :
    (∀ m n bus, (readState m n bus).rst = false ∧ (readState m n bus).phase = .idle ∧
      (readState m n bus).dstate = .ready ∧ (readState m n bus).hostIn = [⟨0x02, 0⟩] ∧
      (readState m n bus).grantIn = true :: [] ∧ (readState m n bus).busIn = bus) ∧
    (∀ x ∈ [0x80#8, 0xC0#8], x.getLsbD 7 = true) ∧ (0x7F#8).getLsbD 7 = false ∧
    seen (fun t => (t.dstate, t.err)) (run 3 (readState 0 0 [some .fail])) = some (.faulted, .transport) ∧
    seen (fun t => (t.err, t.pollCnt)) (run 5 (readState 0 0 [some (.ok []), some (.ok [0x80])])) =
      some (.timeout, 0) ∧
    seen (fun t => (t.err, t.pollCnt)) (run 7 (readState 1 1 [some (.ok []), some (.ok [0x80]), some (.ok [0x80])])) =
      some (.timeout, 1) ∧
    seen (fun t => (t.err, t.status)) (run 7 (readState 1 1 [some (.ok []), some (.ok [0x80]), some .fail])) =
      some (.transport, 0x80) ∧
    seen (fun t => (t.dstate, t.err)) (run 6 (readState 5 0 [some (.ok []), some (.ok [0x00]), some .fail])) =
      some (.faulted, .transport) :=
  ⟨fun _ _ _ => ⟨rfl, rfl, rfl, rfl, rfl, rfl⟩, by decide, by decide, by decide, by decide, by decide, by decide, by decide⟩

/-- ReadRunsByItsTable, its last clause: B3, two retry sleeps with POLL_MAX = 2. -/
theorem witness_read_table_reading :
    seen (fun t => (t.temp, t.hum, t.pollCnt)) (run 11 (readState 2 2 [some (.ok []), some (.ok [0x80]),
      some (.ok [0x80]), some (.ok [0x00]), some (.ok [0x00, 0x19, 0x99, 0x9A, 0x66, 0x66])])) =
      some (0x429FFFF6, 0x411FFFC4, 2) := by decide +kernel

/-- PollLooksAtTransportThenFlagThenCounter: both clauses at the last allowed poll (P5), the first with `fail`, with no byte
and with two. -/
theorem witness_last_poll :
    ({ running .measuring .mPollR [some .fail] with pollCnt := 2 }).phase = .mPollR ∧
    ({ running .measuring .mPollR [some .fail] with pollCnt := 2 }).busNext =
      (some .fail, { running .measuring .mPollR [] with pollCnt := 2 }) ∧
    ({ running .measuring .mPollR [some (.ok [0x80])] with pollCnt := 2 }).busNext =
      (some (.ok [0x80]), { running .measuring .mPollR [] with pollCnt := 2 }) ∧
    (∀ a ∈ [BusAnswer.fail, .ok [], .ok [0x00, 0x00]], ∀ b : Byte, a ≠ .ok [b]) :=
  ⟨rfl, rfl, rfl, by simp⟩

/-- OnlyTheFiveTransactions, TransactionsHoldTheGrant: a step that makes one, from the invariant. -/
theorem witness_transaction :
    Inv { running .measuring .mFrmR [some .fail] with status := 0x00 } ∧
    seen (fun t => newEvents { running .measuring .mFrmR [some .fail] with status := 0x00 } t)
      (step { running .measuring .mFrmR [some .fail] with status := 0x00 }) =
      some [.read 0x38 6 .fail, .rel] ∧
    Event.isTransaction (.read 0x38 6 .fail) = true := ⟨witness_inv_frame_read _, by decide, rfl⟩

/-- AcquireWaitsForTheGrant: no wait, and a wait of two samples. -/
theorem witness_acquire :
    (running .resetting .iAcq []).rst = false ∧ (running .resetting .iAcq []).phase = .iAcq ∧
    [true] = List.replicate 0 false ++ true :: [] ∧ [false, false, true] = List.replicate 2 false ++ true :: [] := by
  decide

/-- DelaysWaitForTheTimer: each clause. -/
theorem witness_delays :
    (∀ p, ({ running .measuring p [] with timerIn := [false] }).timerNext = (false, running .measuring p [])) ∧
    (∀ p, ({ running .measuring p [] with timerIn := [true] }).timerNext = (true, running .measuring p [])) ∧
    (cfg 2).wf = true := ⟨fun _ => rfl, fun _ => rfl, by decide⟩

/-- PollLoopEnds: with no sleep left and one answer, and with two sleeps left and three. -/
theorem witness_poll_loop :
    (Inv { running .measuring .mPollR ([BusAnswer.ok [0x80], .ok [0x80], .ok [0x80]].map some ++ []) with
      timerIn := List.replicate (2 - 0) true ++ [] }) ∧
    (idleAt .measuring).cfg.pollMax - (idleAt .measuring).pollCnt = 2 ∧
    2 < [BusAnswer.ok [0x80], .ok [0x80], .ok [0x80]].length :=
  ⟨witness_inv_polling _ _, by decide, by decide⟩

/-- Rn32IsNearestEven: a value just inside the bound, and the largest finite pattern. -/
theorem witness_rn32 :
    ((2 : Int) ^ 127 - 1).natAbs < 2 ^ (0 + 127) ∧ B32.isFinite 0x7F7FFFFF = true := by decide

/-- HumidityConversion, TemperatureConversion, StepwiseDiffersExactlyThere: the last exact values, and a raw field where
the two readings of the formula differ. -/
theorem witness_conversions :
    (671088#20).toNat < 671089 ∧ (933232#20).toNat < 933233 ∧ (0#20).toNat ≤ (0xFFFFF#20).toNat ∧
    convTStepwise 933231#20 ≠ convTSingle 933231#20 := by decide +kernel

/-- TemperatureIndicatorsExclude, first clause: E1's thresholds, with t at each of them (E4, E2) and between. -/
theorem witness_thresholds_in_order :
    B32.isNaN 0x41A00000 = false ∧ B32.isNaN 0x41B00000 = false ∧ B32.isNaN 0x41C80000 = false ∧
    B32.scaled 0x41A00000 < B32.scaled 0x41C80000 ∧
    classify 0x41A00000 0x42480000 0x41A00000 0x41C80000 0x42700000 = 0 ∧
    classify 0x41C80000 0x42480000 0x41A00000 0x41C80000 0x42700000 = 0 := by decide

/-- Its second clause, E12: hi < t < lo. -/
theorem witness_thresholds_swapped :
    B32.scaled 0x41A00000 < B32.scaled 0x41C80000 ∧ B32.scaled 0x41A00000 < B32.scaled 0x41B00000 ∧
    B32.scaled 0x41B00000 < B32.scaled 0x41C80000 := by decide

/-- Its third clause, E13: hi = lo, with t there, and E15: hi = lo = -0 with t = +0. -/
theorem witness_thresholds_equal :
    B32.scaled 0x41B00000 = B32.scaled 0x41B00000 ∧ classify 0x41B00000 0x42480000 0x41B00000 0x41B00000 0x42700000 = 0 ∧
    B32.scaled 0x80000000 = B32.scaled 0x00000000 ∧ B32.isNaN 0x80000000 = false := by decide

/-- ClassifyAnswersTheIndicators, EncodeAnswersTheLines: with and without a valid reading. -/
theorem witness_reading :
    withReading.phase = .idle ∧ withReading.rdValid = true ∧ withReading.temp.isFinite = true ∧
    withReading.hum.isFinite = true ∧ (idleAt .ready).phase = .idle ∧ (idleAt .ready).rdValid = false := by decide

/-- EncodeRefusesNonFinite: a NaN and an infinity; its last clause has `witness_inv_with_a_reading`. -/
theorem witness_non_finite :
    ({ withReading with temp := 0x7FC00000 }).temp.isFinite = false ∧
    ({ withReading with hum := 0x7F800000 }).hum.isFinite = false ∧ withReading.rdValid = true := by decide

/-- DecimalsAreRoundedOnceToEven: the largest finite value. -/
theorem witness_decimals : B32.isFinite 0x7F7FFFFF = true ∧ B32.isFinite 0x80000000 = true := by decide

/-- LinesEndInTheirOnlyCrLf, LinesHaveTheirLengths: G8's and G3's readings, the shortest and the longest lines. -/
theorem witness_lines :
    (cfg 2).templatesOk = true ∧ tempInRange 0 ∧ humInRange 0 ∧ tempInRange 0x4315FFF4 ∧ humInRange 0x42C7FFF4 ∧
    (telemetry (cfg 2) 0 0 0).isSome = true ∧ (telemetry (cfg 2) 0x4315FFF4 0x42C7FFF4 4294967295).isSome = true ∧
    dec 0 2 = some [0x30, 0x2E, 0x30, 0x30] ∧ dec 0 0 = some [0x30] :=
  ⟨by decide, ⟨by decide, by decide, by decide⟩, ⟨by decide, by decide, by decide⟩,
    ⟨by decide, by decide, by decide⟩, ⟨by decide, by decide, by decide⟩, by decide +kernel, by decide +kernel,
    by decide, by decide⟩

/-- LineBytesAreAscii, StructuredLineKeepsItsFields: the conditions on the configuration. -/
theorem witness_templates : (cfg 2).asciiOk = true ∧ (cfg 2).keysOk = true ∧ (cfg 2).templatesOk = true := by decide

/-- OperationsEndUnderThePremises: INIT waiting for its grant, one sample of waiting with each agent. -/
def waitingInit : State :=
  { running .resetting .iAcq [none, some (.ok []), some (.ok []), some (.ok [0x08])] with
    grantIn := [false, true], timerIn := [false, true, true] }

theorem witness_inv_waiting_init : Inv waitingInit := by
  constructor <;> simp [waitingInit, running, idleAt, Phase.holdsBus, Phase.lifecycles, cfg]

/-- After `k` steps the run is idle with nothing presented, and each of the waits before has ended by then. -/
def idleAfter (phases : List Phase) (k : Nat) (s : State) : Bool :=
  match run k s with
  | .next d =>
    !d.rst && decide (d.phase = .idle) && d.hostIn.isEmpty && !phases.contains .idle &&
      (List.range k).all fun n =>
        match run n s with
        | .next t => !phases.contains t.phase || (newEvents t d).any t.phase.endsWait
        | .fault _ | .refused _ => false
  | .fault _ | .refused _ => false

/-- It is enough to look at the waits before the run is idle. -/
theorem waitsEnd_of_idle (phases : List Phase) (k : Nat) (s : State) (h : idleAfter phases k s = true) :
    waitsEnd phases s := by
  unfold idleAfter at h
  split at h
  · rename_i d hd
    simp only [Bool.and_eq_true, Bool.not_eq_true', decide_eq_true_eq, List.isEmpty_iff, List.all_eq_true,
      List.mem_range] at h
    obtain ⟨⟨⟨⟨hr, hp⟩, hh⟩, hi⟩, hw⟩ := h
    intro n t hn _ ht
    rcases Nat.lt_or_ge n k with hlt | hge
    · have hrun := run_add n (k - n) s t hn
      rw [Nat.add_sub_cancel' hlt.le, hd] at hrun
      have hwn := hw n hlt
      rw [hn] at hwn
      exact ⟨k - n, d, hrun.symm, by simpa [ht] using hwn⟩
    · have hrun := run_add k (n - k) s d hd
      rw [Nat.add_sub_cancel' hge, hn, run_idle _ d hr hp hh] at hrun
      cases hrun
      rw [hp] at ht
      simp [ht] at hi
  all_goals cases h

theorem witness_premises :
    waitingInit.rst = false ∧ waitingInit.phase ≠ .idle ∧ pGrant waitingInit ∧ pDelay waitingInit ∧
    pAnswers waitingInit :=
  ⟨rfl, by decide, waitsEnd_of_idle _ 10 _ (by decide +kernel), waitsEnd_of_idle _ 10 _ (by decide +kernel),
    waitsEnd_of_idle _ 10 _ (by decide +kernel)⟩

/-- LinesHaveTheirLengths: its condition on the configuration. -/
theorem witness_default_templates :
    cfg 2 = { Config.built with
      pollMax := (cfg 2).pollMax, tReset := (cfg 2).tReset, tInit := (cfg 2).tInit, tConv := (cfg 2).tConv,
      tPoll := (cfg 2).tPoll, tsBits := (cfg 2).tsBits, convMode := (cfg 2).convMode } := rfl

/-- FaultedIsLeftOnlyByInit: INIT presented in Faulted. -/
theorem witness_faulted :
    Inv { idleAt .faulted with err := .transport, resp := [⟨.transport, .nothing⟩], hostIn := [⟨0x01, 0⟩] } ∧
    seen (fun t => t.dstate) (step { idleAt .faulted with
      err := .transport, resp := [⟨.transport, .nothing⟩], hostIn := [⟨0x01, 0⟩] }) = some .resetting := by
  refine ⟨?_, by decide⟩
  obtain ⟨⟩ := witness_inv_faulted
  constructor <;> assumption

/-- IdleStatesAreConsistent: a reset state of the vectors' configuration can be reached and is idle. -/
theorem witness_reachable :
    Reachable { State.reset with cfg := cfg 2, thLow := 0x41A00000, thHigh := 0x41C80000, thHum := 0x42700000 } ∧
    State.reset.phase = .idle := ⟨.start _ _ _ _, rfl⟩

/-- The vectors' configuration and thresholds after reset, with INIT and READ presented and everything coming at once. -/
def bringUp : State :=
  { State.reset with
    cfg := cfg 2, thLow := 0x41A00000, thHigh := 0x41C80000, thHum := 0x42700000
    hostIn := [⟨0x01, 0⟩, ⟨0x02, 0⟩], grantIn := [true, true], timerIn := [true, true, true]
    busIn := [some (.ok []), some (.ok []), some (.ok [0x08]), some (.ok []), some (.ok [0x00]),
      some (.ok [0x00, 0x19, 0x99, 0x9A, 0x66, 0x66])] }

theorem witness_bring_up_ends :
    seen (fun t => (t.phase, t.rdValid)) (run 15 bringUp) = some (.idle, true) := by decide

/-- IdleStatesAreConsistent: a reachable idle state with RD_VALID = 1. -/
theorem witness_reachable_reading : ∃ t, Reachable t ∧ t.phase = .idle ∧ t.rdValid = true := by
  have h := witness_bring_up_ends
  cases hr : run 15 bringUp with
  | next t =>
    rw [hr] at h
    simp only [seen, Option.some.injEq, Prod.mk.injEq] at h
    exact ⟨t, Reachable.run 15 _ t (.input _ _ _ _ _ _ (.start (cfg 2) 0x41A00000 0x41C80000 0x42700000)) hr, h.1, h.2⟩
  | fault f => exact f.casesOn
  | refused r =>
    rw [hr] at h
    cases h

/-- ReadingsComeFromAClearBusyFlag: the step that writes L1-4's reading. -/
theorem witness_new_reading :
    Inv decoding ∧ decoding.rst = false ∧ seen (fun t => decide (t.temp ≠ decoding.temp)) (step decoding) = some true :=
  ⟨witness_inv_decoding, rfl, by decide +kernel⟩

/-- LifecycleFollowsItsTable, RegistersHaveOnlyTheirWriters, ConfigurationIsConstant: a step and an operation that go on. -/
theorem witness_next :
    (∃ t, step decoding = .next t) ∧ (∃ t, exec .decode decoding = .next t) := ⟨⟨_, rfl⟩, ⟨_, rfl⟩⟩

/-- ErrorEntryWritesItsFourRegisters: the three errors. -/
theorem witness_errors :
    ∀ e ∈ [ErrKind.transport, .calibration, .timeout], e = .transport ∨ e = .calibration ∨ e = .timeout := by decide

/-- HostReadsOnlyWhileIdle: both clauses. -/
theorem witness_host_view : withReading.phase = .idle ∧ decoding.phase ≠ .idle := by decide

end Sys2Proof.Tests
end

section
/-! PROOFS. What one operation and one step can do, said once: `Effect` lists how `exec` ends, `Move` how `step` ends,
guards included. Every invariant below is a case analysis over them. -/

namespace Sys2Proof.Machine

/-! ## Selection by phase -/

/-- The block takes the operation in this phase (R62, R100, R130). -/
def Phase.issues (p : Phase) (i : Instr) : Prop :=
  p = issuingPhase i ∨ i = .statusRead ∧ p = .mPollR

/-- Every operation but STATUS_READ has one phase. -/
theorem Phase.issues_eq {p : Phase} {i : Instr} (hi : i ≠ .statusRead) (h : p.issues i) : p = issuingPhase i :=
  h.resolve_right fun hs => hi hs.1

/-- A bus transaction is issued in a running phase only (R62). -/
theorem Phase.issues_ne_idle {p : Phase} {i : Instr} (hi : i.isTransaction = true) (hp : p.issues i) : p ≠ .idle := by
  rintro rfl
  cases i <;> simp_all [Phase.issues, issuingPhase, Instr.isTransaction]

theorem State.inPhase_of_eq {s : State} {p : Phase} (f : State → State) (h : s.phase = p) : s.inPhase p f = f s :=
  if_pos h

theorem State.inPhase_of_ne {s : State} {p : Phase} (f : State → State) (h : s.phase ≠ p) : s.inPhase p f = s :=
  if_neg h

/-! ## What an operation can do -/

/-- The ways in which an operation ends in a next state. -/
inductive Effect (s : State) : Instr → State → Prop
  /-- Log 6: out of its phase an operation is not issued. -/
  | unissued (i : Instr) (hp : ¬ s.phase.issues i) : Effect s i s
  /-- R131, the `accept` line. -/
  | initAccepted (hp : s.phase = .idle) (hd : s.dstate.admitsInit = true) :
      Effect s .init { s with err := .none, rdValid := false, dstate := .resetting, phase := .iAcq }
  /-- Log 23. -/
  | initIgnored (hp : s.phase = .idle) (hd : s.dstate.admitsInit = false) : Effect s .init s
  /-- R140, the `accept` line. -/
  | readAccepted (hp : s.phase = .idle) (hd : s.dstate = .ready) :
      Effect s .read { s with err := .none, rdValid := false, pollCnt := 0, dstate := .measuring, phase := .mAcq }
  /-- R141. -/
  | readRefused (hp : s.phase = .idle) (hd : s.dstate ≠ .ready) : Effect s .read s.notReady
  /-- R201. -/
  | classified (hp : s.phase = .idle) (hv : s.rdValid = true) :
      Effect s .classify
        (s.respond .none (.indicators (Machine.classify s.temp s.hum s.thLow s.thHigh s.thHum)))
  /-- R216. -/
  | encoded (ts : Nat) (p : Payload) (hp : s.phase = .idle) (hv : s.rdValid = true)
      (ht : telemetry s.cfg s.temp s.hum ts = some p) : Effect s (.encode ts) (s.respond .none p)
  /-- R203, R217: no valid reading. -/
  | noReading (i : Instr) (hi : i = .classify ∨ ∃ ts, i = .encode ts) (hp : s.phase = .idle)
      (hv : s.rdValid = false) : Effect s i s.notReady
  /-- R268: the transport has not returned. -/
  | waits (i : Instr) (b : List (Option BusAnswer)) (d : Nat) (hi : i.isTransaction = true) (hp : s.phase.issues i) :
      Effect s i { s with busIn := b, draws := d }
  /-- R251: the transaction failed. -/
  | failed (i : Instr) (b : List (Option BusAnswer)) (d : Nat) (e : Event) (hi : i.isTransaction = true)
      (hp : s.phase.issues i) (he : e.failed = true) :
      Effect s i (State.raise .transport { s with busIn := b, draws := d, trace := s.trace ++ [e] })
  | softResetSent (b : List (Option BusAnswer)) (d : Nat) (hp : s.phase = .iRstW) :
      Effect s .softReset
        { s with busIn := b, draws := d, trace := s.trace ++ [.write devAddr softResetBytes true], phase := .iRstD }
  | initCfgSent (b : List (Option BusAnswer)) (d : Nat) (hp : s.phase = .iCfgW) :
      Effect s .initCfg
        { s with busIn := b, draws := d, trace := s.trace ++ [.write devAddr initCfgBytes true], phase := .iCfgD }
  | triggerSent (b : List (Option BusAnswer)) (d : Nat) (hp : s.phase = .mTrgW) :
      Effect s .trigger
        { s with busIn := b, draws := d, trace := s.trace ++ [.write devAddr triggerBytes true], phase := .mCnvD }
  /-- R131: INIT's status read. -/
  | statusToCheck (b : List (Option BusAnswer)) (d : Nat) (bytes : List Byte) (hp : s.phase = .iStR)
      (hl : bytes.length = statusLen) :
      Effect s .statusRead
        { s with
          busIn := b, draws := d, trace := s.trace ++ [.read devAddr statusLen (.ok bytes)]
          status := bytes.getD 0 0, phase := .iChk }
  /-- R140: READ's status read found BUSY clear. -/
  | pollClear (b : List (Option BusAnswer)) (d : Nat) (bytes : List Byte) (hp : s.phase = .mPollR)
      (hl : bytes.length = statusLen) (hb : busyFlag (bytes.getD 0 0) = false) :
      Effect s .statusRead
        { s with
          busIn := b, draws := d, trace := s.trace ++ [.read devAddr statusLen (.ok bytes)]
          status := bytes.getD 0 0, phase := .mFrmR }
  /-- R143, R256: BUSY is set and no retry sleep is left. -/
  | pollTimeout (b : List (Option BusAnswer)) (d : Nat) (bytes : List Byte) (hp : s.phase = .mPollR)
      (hl : bytes.length = statusLen) (hb : busyFlag (bytes.getD 0 0) = true) (hc : s.pollCnt = s.cfg.pollMax) :
      Effect s .statusRead
        (State.raise .timeout { s with
          busIn := b, draws := d, trace := s.trace ++ [.read devAddr statusLen (.ok bytes)]
          status := bytes.getD 0 0 })
  /-- R142: BUSY is set and a retry sleep is left. -/
  | pollAgain (b : List (Option BusAnswer)) (d : Nat) (bytes : List Byte) (hp : s.phase = .mPollR)
      (hl : bytes.length = statusLen) (hb : busyFlag (bytes.getD 0 0) = true) (hc : s.pollCnt ≠ s.cfg.pollMax) :
      Effect s .statusRead
        { s with
          busIn := b, draws := d, trace := s.trace ++ [.read devAddr statusLen (.ok bytes)]
          status := bytes.getD 0 0, phase := .mPollD }
  | frameStored (b : List (Option BusAnswer)) (d : Nat) (bytes : List Byte) (hp : s.phase = .mFrmR)
      (hl : bytes.length = frameLen) :
      Effect s .frameRead
        { s with
          busIn := b, draws := d, trace := s.trace ++ [.read devAddr frameLen (.ok bytes)]
          frame := frameOfBytes bytes, phase := .mDec }
  /-- R140, R181. -/
  | decoded (hp : s.phase = .mDec) : Effect s .decode s.decodeFrame.endRead

variable {s t : State}

/-- Where the operation's one phase is `p`, `inPhase` either runs it or leaves the state. -/
theorem Effect.of_inPhase {i : Instr} {p : Phase} {f : State → State} (hp : ∀ q : Phase, q.issues i → q = p)
    (hf : s.phase = p → Effect s i (f s)) : Effect s i (s.inPhase p f) := by
  by_cases h : s.phase = p
  · rw [State.inPhase_of_eq f h]
    exact hf h
  · rw [State.inPhase_of_ne f h]
    exact .unissued i fun hi => h (hp _ hi)

/-- A command: the transport's success ends it as `hok` says, else it fails or waits. -/
theorem Effect.of_busWrite {i : Instr} {bytes : List Byte} {f : State → State} (hi : i.isTransaction = true)
    (hp : s.phase.issues i)
    (hok : ∀ b d, Effect s i (f { s with busIn := b, draws := d, trace := s.trace ++ [.write devAddr bytes true] })) :
    Effect s i (s.busWrite bytes f) := by
  obtain ⟨b, d, h | h | h⟩ := s.busWrite_cases bytes f <;> rw [h]
  · exact hok b d
  · exact .failed i b d _ hi hp rfl
  · exact .waits i b d hi hp

/-- A bus read: an answer of the right length ends it as `hok` says, else it fails or waits. -/
theorem Effect.of_busRead {i : Instr} {count : Nat} {f : List Byte → State → State} (hi : i.isTransaction = true)
    (hp : s.phase.issues i)
    (hok : ∀ b d bytes, bytes.length = count →
      Effect s i (f bytes { s with busIn := b, draws := d, trace := s.trace ++ [.read devAddr count (.ok bytes)] })) :
    Effect s i (s.busRead count f) := by
  obtain ⟨b, d, ⟨bytes, hl, h⟩ | ⟨a, ha, h⟩ | h⟩ := s.busRead_cases count f <;> rw [h]
  · exact hok b d bytes hl
  · exact .failed i b d _ hi hp ha
  · exact .waits i b d hi hp

/-- The busy test of M_POLL_R, on the state that STATUS_READ has stored its byte in (R145). -/
theorem State.pollTest_cases (s : State) :
    busyFlag s.status = false ∧ s.pollTest = { s with phase := .mFrmR } ∨
    busyFlag s.status = true ∧ s.pollCnt = s.cfg.pollMax ∧ s.pollTest = s.raise .timeout ∨
    busyFlag s.status = true ∧ s.pollCnt ≠ s.cfg.pollMax ∧ s.pollTest = { s with phase := .mPollD } := by
  unfold State.pollTest
  split_ifs with hb hc
  · exact .inl ⟨hb, rfl⟩
  · exact .inr (.inl ⟨by simpa using hb, hc, rfl⟩)
  · exact .inr (.inr ⟨by simpa using hb, hc, rfl⟩)

theorem Effect.of_execInit (h : execInit s = .next t) : Effect s .init t := by
  cases h
  refine .of_inPhase (fun _ => Phase.issues_eq nofun) fun hp => ?_
  split_ifs with hd
  · exact .initAccepted hp hd
  · exact .initIgnored hp (by simpa using hd)

theorem Effect.of_execRead (h : execRead s = .next t) : Effect s .read t := by
  cases h
  refine .of_inPhase (fun _ => Phase.issues_eq nofun) fun hp => ?_
  split_ifs with hd
  · exact .readAccepted hp hd
  · exact .readRefused hp hd

theorem Effect.of_execClassify (h : execClassify s = .next t) : Effect s .classify t := by
  cases h
  refine .of_inPhase (fun _ => Phase.issues_eq nofun) fun hp => ?_
  split_ifs with hv
  · exact .classified hp hv
  · exact .noReading _ (.inl rfl) hp (by simpa using hv)

theorem Effect.of_execEncode {ts : Nat} (h : execEncode ts s = .next t) : Effect s (.encode ts) t := by
  unfold execEncode at h
  split_ifs at h with hp hv
  · cases ht : telemetry s.cfg s.temp s.hum ts with
    | some p =>
      rw [ht] at h
      cases h
      exact .encoded ts p hp hv ht
    | none =>
      rw [ht] at h
      cases h
  · cases h
    exact .noReading _ (.inr ⟨ts, rfl⟩) hp (by simpa using hv)
  · cases h
    exact .unissued _ fun hi => hp (Phase.issues_eq (i := .encode ts) nofun hi)

theorem Effect.of_execSoftReset (h : execSoftReset s = .next t) : Effect s .softReset t := by
  cases h
  exact .of_inPhase (fun _ => Phase.issues_eq nofun) fun hp =>
    .of_busWrite rfl (.inl hp) fun b d => .softResetSent b d hp

theorem Effect.of_execInitCfg (h : execInitCfg s = .next t) : Effect s .initCfg t := by
  cases h
  exact .of_inPhase (fun _ => Phase.issues_eq nofun) fun hp =>
    .of_busWrite rfl (.inl hp) fun b d => .initCfgSent b d hp

theorem Effect.of_execTrigger (h : execTrigger s = .next t) : Effect s .trigger t := by
  cases h
  exact .of_inPhase (fun _ => Phase.issues_eq nofun) fun hp =>
    .of_busWrite rfl (.inl hp) fun b d => .triggerSent b d hp

theorem Effect.of_execFrameRead (h : execFrameRead s = .next t) : Effect s .frameRead t := by
  cases h
  exact .of_inPhase (fun _ => Phase.issues_eq nofun) fun hp =>
    .of_busRead rfl (.inl hp) fun b d bytes hl => .frameStored b d bytes hp hl

theorem Effect.of_execDecode (h : execDecode s = .next t) : Effect s .decode t := by
  cases h
  exact .of_inPhase (fun _ => Phase.issues_eq nofun) .decoded

theorem Effect.of_execStatusRead (h : execStatusRead s = .next t) : Effect s .statusRead t := by
  unfold execStatusRead at h
  split at h
  next hp =>
    cases h
    exact .of_busRead rfl (.inl hp) fun b d bytes hl => .statusToCheck b d bytes hp hl
  next hp =>
    cases h
    refine .of_busRead rfl (.inr ⟨rfl, hp⟩) fun b d bytes hl => ?_
    obtain ⟨hb, ht⟩ | ⟨hb, hc, ht⟩ | ⟨hb, hc, ht⟩ := State.pollTest_cases (State.storeStatus bytes
      { s with busIn := b, draws := d, trace := s.trace ++ [.read devAddr statusLen (.ok bytes)] }) <;> rw [ht]
    · exact .pollClear b d bytes hp hl hb
    · exact .pollTimeout b d bytes hp hl hb hc
    · exact .pollAgain b d bytes hp hl hb hc
  all_goals
    next hp =>
      cases h
      exact .unissued _ (by simp [Phase.issues, issuingPhase, hp])

/-- What `exec` answers is an effect of the operation. -/
theorem Effect.of_exec {i : Instr} (h : exec i s = .next t) : Effect s i t := by
  cases i with
  | init => exact .of_execInit h
  | read => exact .of_execRead h
  | classify => exact .of_execClassify h
  | encode ts => exact .of_execEncode h
  | softReset => exact .of_execSoftReset h
  | initCfg => exact .of_execInitCfg h
  | trigger => exact .of_execTrigger h
  | statusRead => exact .of_execStatusRead h
  | frameRead => exact .of_execFrameRead h
  | decode => exact .of_execDecode h

/-! ## What a step can do -/

/-- The ways in which a step ends in a next state. -/
inductive Move (s : State) : State → Prop
  /-- R292. -/
  | reset (hr : s.rst = true) : Move s s.resetNow
  /-- R21: nothing is presented. -/
  | quiet (hr : s.rst = false) (hp : s.phase = .idle) (hh : s.hostIn = []) : Move s s
  /-- R108: the code names no operation. -/
  | turnedAway (w : HostWord) (rest : List HostWord) (e : DecodeError) (hr : s.rst = false) (hp : s.phase = .idle)
      (hh : s.hostIn = w :: rest) (hd : Sys2Proof.decode s.cfg.tsBits (.host w) = .error e) :
      Move s { s with hostIn := rest }
  /-- R100, R130: the operation that the host presents. -/
  | hostOp (w : HostWord) (rest : List HostWord) (i : Instr) (t : State) (hr : s.rst = false) (hp : s.phase = .idle)
      (hh : s.hostIn = w :: rest) (hd : Sys2Proof.decode s.cfg.tsBits (.host w) = .ok i)
      (he : Effect { s with hostIn := rest } i t) : Move s t
  /-- R100: the operation that the phase issues. -/
  | phaseOp (i : Instr) (t : State) (hr : s.rst = false) (hp : s.phase ≠ .idle) (hi : s.phase.issues i)
      (he : Effect s i t) : Move s t
  /-- R72: the grant is not there yet. -/
  | asksForBus (g : List Bool) (d : Nat) (hr : s.rst = false) (hp : s.phase = .iAcq ∨ s.phase = .mAcq) :
      Move s { s with busReq := true, grantIn := g, draws := d }
  | initGranted (g : List Bool) (d : Nat) (hr : s.rst = false) (hp : s.phase = .iAcq) :
      Move s { s with busReq := true, grantIn := g, draws := d, phase := .iRstW, trace := s.trace ++ [.acq] }
  | readGranted (g : List Bool) (d : Nat) (hr : s.rst = false) (hp : s.phase = .mAcq) :
      Move s { s with busReq := true, grantIn := g, draws := d, phase := .mTrgW, trace := s.trace ++ [.acq] }
  /-- R262: the delay is not over. -/
  | sleeps (ts : List Bool) (d : Nat) (hr : s.rst = false)
      (hp : s.phase = .iRstD ∨ s.phase = .iCfgD ∨ s.phase = .mCnvD ∨ s.phase = .mPollD) :
      Move s { s with timerIn := ts, draws := d }
  | resetDelayOver (ts : List Bool) (d : Nat) (hr : s.rst = false) (hp : s.phase = .iRstD) :
      Move s
        { s with
          timerIn := ts, draws := d, trace := s.trace ++ [.delay s.cfg.tReset]
          dstate := .awaitingCalibration, phase := .iCfgW }
  | initDelayOver (ts : List Bool) (d : Nat) (hr : s.rst = false) (hp : s.phase = .iCfgD) :
      Move s { s with timerIn := ts, draws := d, trace := s.trace ++ [.delay s.cfg.tInit], phase := .iStR }
  | conversionDelayOver (ts : List Bool) (d : Nat) (hr : s.rst = false) (hp : s.phase = .mCnvD) :
      Move s { s with timerIn := ts, draws := d, trace := s.trace ++ [.delay s.cfg.tConv], phase := .mPollR }
  | pollDelayOver (ts : List Bool) (d : Nat) (hr : s.rst = false) (hp : s.phase = .mPollD) :
      Move s
        { s with
          timerIn := ts, draws := d, trace := s.trace ++ [.delay s.cfg.tPoll]
          pollCnt := s.pollCnt + 1, phase := .mPollR }
  /-- R131, R134: the calibration check. -/
  | calibrated (hr : s.rst = false) (hp : s.phase = .iChk) (hc : calFlag s.status = true) : Move s (s.finish .nothing)
  | uncalibrated (hr : s.rst = false) (hp : s.phase = .iChk) (hc : calFlag s.status = false) :
      Move s (s.raise .calibration)

theorem step_of_rst (h : s.rst = true) : step s = .next s.resetNow := if_pos h

/-- The selected operation is the step (R100). -/
theorem step_of_run {i : Instr} {u : State} (hr : s.rst = false) (hs : s.select = .run i u) : step s = exec i u := by
  simp [step, hr, hs]

/-- Where the phase's step is no operation, it always answers (R268). -/
theorem step_of_goTo {u : State} (hr : s.rst = false) (hs : s.select = .goTo u) : step s = .next u := by
  simp [step, hr, hs]

theorem eq_of_goTo {u : State} (hr : s.rst = false) (hs : s.select = .goTo u) (h : step s = .next t) : t = u := by
  rw [step_of_goTo hr hs] at h
  exact (Host.Outcome.next.inj h).symm

/-- In IDLE the port decides (R21, R100, R108). -/
theorem Move.of_idle (hr : s.rst = false) (hp : s.phase = .idle) (h : step s = .next t) : Move s t := by
  cases hh : s.hostIn with
  | nil =>
    rw [eq_of_goTo (u := s) hr (by simp [State.select, State.selectIdle, hp, hh]) h]
    exact .quiet hr hp hh
  | cons w rest =>
    cases hd : Sys2Proof.decode s.cfg.tsBits (.host w) with
    | error e =>
      rw [eq_of_goTo (u := { s with hostIn := rest }) hr (by simp [State.select, State.selectIdle, hp, hh, hd]) h]
      exact .turnedAway w rest e hr hp hh hd
    | ok i =>
      rw [step_of_run hr (i := i) (u := { s with hostIn := rest })
        (by simp [State.select, State.selectIdle, hp, hh, hd])] at h
      exact .hostOp w rest i t hr hp hh hd (.of_exec h)

/-- In a phase that issues an operation, that operation is the step (R100). -/
theorem Move.of_phaseOp {p : Phase} (i : Instr) (hr : s.rst = false) (hp : s.phase = p) (hne : p ≠ .idle)
    (hi : p.issues i) (hs : s.select = .run i s) (h : step s = .next t) : Move s t := by
  rw [step_of_run hr hs] at h
  exact .phaseOp i t hr (hp ▸ hne) (hp ▸ hi) (.of_exec h)

/-- What `step` answers is a move of the machine. -/
theorem Move.of_step (h : step s = .next t) : Move s t := by
  cases hr : s.rst with
  | true =>
    rw [step_of_rst hr] at h
    cases h
    exact .reset hr
  | false =>
    cases hp : s.phase with
    | idle => exact .of_idle hr hp h
    | iRstW => exact .of_phaseOp .softReset hr hp nofun (.inl rfl) (by simp [State.select, hp]) h
    | iCfgW => exact .of_phaseOp .initCfg hr hp nofun (.inl rfl) (by simp [State.select, hp]) h
    | iStR => exact .of_phaseOp .statusRead hr hp nofun (.inl rfl) (by simp [State.select, hp]) h
    | mTrgW => exact .of_phaseOp .trigger hr hp nofun (.inl rfl) (by simp [State.select, hp]) h
    | mPollR => exact .of_phaseOp .statusRead hr hp nofun (.inr ⟨rfl, rfl⟩) (by simp [State.select, hp]) h
    | mFrmR => exact .of_phaseOp .frameRead hr hp nofun (.inl rfl) (by simp [State.select, hp]) h
    | mDec => exact .of_phaseOp .decode hr hp nofun (.inl rfl) (by simp [State.select, hp]) h
    | iAcq =>
      rw [eq_of_goTo (u := stepAcquire .iRstW s) hr (by simp [State.select, hp]) h]
      obtain ⟨g, d, ha | ha⟩ := s.acquire_cases .iRstW <;> rw [stepAcquire, ha]
      · exact .initGranted g d hr hp
      · exact .asksForBus g d hr (.inl hp)
    | mAcq =>
      rw [eq_of_goTo (u := stepAcquire .mTrgW s) hr (by simp [State.select, hp]) h]
      obtain ⟨g, d, ha | ha⟩ := s.acquire_cases .mTrgW <;> rw [stepAcquire, ha]
      · exact .readGranted g d hr hp
      · exact .asksForBus g d hr (.inr hp)
    | iRstD =>
      rw [eq_of_goTo (u := stepResetDelay s) hr (by simp [State.select, hp]) h, stepResetDelay]
      obtain ⟨ts, d, ha | ha⟩ := s.delay_cases s.cfg.tReset _ <;> rw [ha]
      · exact .resetDelayOver ts d hr hp
      · exact .sleeps ts d hr (.inl hp)
    | iCfgD =>
      rw [eq_of_goTo (u := stepInitDelay s) hr (by simp [State.select, hp]) h, stepInitDelay]
      obtain ⟨ts, d, ha | ha⟩ := s.delay_cases s.cfg.tInit _ <;> rw [ha]
      · exact .initDelayOver ts d hr hp
      · exact .sleeps ts d hr (.inr (.inl hp))
    | mCnvD =>
      rw [eq_of_goTo (u := stepConversionDelay s) hr (by simp [State.select, hp]) h, stepConversionDelay]
      obtain ⟨ts, d, ha | ha⟩ := s.delay_cases s.cfg.tConv _ <;> rw [ha]
      · exact .conversionDelayOver ts d hr hp
      · exact .sleeps ts d hr (.inr (.inr (.inl hp)))
    | mPollD =>
      rw [eq_of_goTo (u := stepPollDelay s) hr (by simp [State.select, hp]) h, stepPollDelay]
      obtain ⟨ts, d, ha | ha⟩ := s.delay_cases s.cfg.tPoll _ <;> rw [ha]
      · exact .pollDelayOver ts d hr hp
      · exact .sleeps ts d hr (.inr (.inr (.inr hp)))
    | iChk =>
      rw [eq_of_goTo (u := stepCheck s) hr (by simp [State.select, hp]) h, stepCheck]
      split_ifs with hc
      · exact .uncalibrated hr hp hc
      · exact .calibrated hr hp (by simpa using hc)

end Sys2Proof.Machine
end

section
/-! PROOFS. Family 10_state.md: thresholds and configuration are constant (O56), and the registers agree with each other
whenever the block is idle (O53). -/

namespace Sys2Proof.Machine

variable {s t : State}

/-! ## Thresholds and configuration -/

/-- What R31 and R33 call constant: the three thresholds and the configuration. -/
def State.constants (s : State) : B32 × B32 × B32 × Config := (s.thLow, s.thHigh, s.thHum, s.cfg)

theorem Effect.constants_eq {i : Instr} (h : Effect s i t) : t.constants = s.constants := by
  cases h <;> rfl

theorem Move.constants_eq (h : Move s t) : t.constants = s.constants := by
  cases h with
  | hostOp w rest i _ _ _ _ _ he => exact he.constants_eq
  | phaseOp i _ _ _ _ he => exact he.constants_eq
  | _ => rfl

/-- Settles O56: neither an effect of an operation nor any other move of a step writes them. -/
theorem configurationIsConstant : Obligations.ConfigurationIsConstant := by
  intro s t h
  simpa [State.constants] using (Move.of_step h).constants_eq

/-! ## The control registers -/

/-- The part of `Inv` that speaks of the control registers and of the responses given (R22, R46): it holds by itself,
whatever the data registers and the inputs are. -/
structure ControlInv (s : State) : Prop where
  idleReleased : s.phase = .idle → s.busReq = false
  lifecycle : s.dstate ∈ s.phase.lifecycles
  runningClean : s.phase ≠ .idle → s.err = .none ∧ s.rdValid = false
  readingReady : s.rdValid = true → s.dstate = .ready ∧ s.err = .none
  faultedErr : s.dstate = .faulted → s.err = .transport ∨ s.err = .calibration
  timeoutReady : s.phase = .idle → s.err = .timeout → s.dstate = .ready
  errHistory : s.phase = .idle → s.err = lastCode s.resp
  readHistory : s.phase = .idle → s.rdValid = (lastDriver s.resp).any Response.isReading

/-- The block's invariant contains it. -/
theorem Inv.controlInv (h : Inv s) : ControlInv s where
  __ := h
  readingReady hv :=
    have ⟨hd, he, _⟩ := h.readingGood hv
    ⟨hd, he⟩
  timeoutReady hp := (h.errLifecycle hp).1

theorem lastCode_eq_none_iff (resp : List Response) :
    lastCode resp = .none ↔ lastDriver resp = none ∨ ∃ r, lastDriver resp = some r ∧ r.code = .none := by
  cases h : lastDriver resp <;> simp [lastCode, h]

theorem lastCode_append (resp : List Response) (r : Response) :
    lastCode (resp ++ [r]) = if r.endsDriverOperation then r.code else lastCode resp := by
  simp only [lastCode, lastDriver_append]
  split_ifs <;> rfl

theorem endsDriverOperation_of_error {e : ErrKind} (p : Payload)
    (he : e = .transport ∨ e = .calibration ∨ e = .timeout) : Response.endsDriverOperation ⟨e, p⟩ = true := by
  rcases he with rfl | rfl | rfl <;> rfl

/-- Only IDLE goes with Faulted (R22). -/
theorem faulted_notMem_lifecycles {p : Phase} (hp : p ≠ .idle) : DState.faulted ∉ p.lifecycles := by
  cases p <;> simp_all [Phase.lifecycles]

/-- While an operation runs, the lifecycle state and the two cleared registers are all there is to say. -/
theorem ControlInv.of_running (hp : s.phase ≠ .idle) (hd : s.dstate ∈ s.phase.lifecycles)
    (hc : s.err = .none ∧ s.rdValid = false) : ControlInv s where
  idleReleased h := absurd h hp
  lifecycle := hd
  runningClean _ := hc
  readingReady h := by simp [hc.2] at h
  faultedErr h := absurd (h ▸ hd) (faulted_notMem_lifecycles hp)
  timeoutReady h := absurd h hp
  errHistory h := absurd h hp
  readHistory h := absurd h hp

/-- A running operation waits, or goes from its phase `p` to another of the same lifecycle state. -/
theorem ControlInv.of_sameLifecycle {p : Phase} (h : ControlInv s) (hs : s.phase = p)
    (hne : p ≠ .idle ∧ t.phase ≠ .idle) (hl : t.phase.lifecycles = p.lifecycles)
    (hst : t.dstate = s.dstate ∧ t.err = s.err ∧ t.rdValid = s.rdValid) : ControlInv t := by
  obtain ⟨hp, hq⟩ := hne
  obtain ⟨hd, he, hv⟩ := hst
  refine .of_running hq ?_ ?_
  · rw [hd, hl, ← hs]
    exact h.lifecycle
  · rw [he, hv]
    exact h.runningClean (hs ▸ hp)

/-- A step of waiting inside an operation. -/
theorem ControlInv.of_samePhase (h : ControlInv s) (hp : s.phase ≠ .idle) (ht : t.phase = s.phase)
    (hst : t.dstate = s.dstate ∧ t.err = s.err ∧ t.rdValid = s.rdValid) : ControlInv t :=
  h.of_sameLifecycle rfl ⟨hp, ht ▸ hp⟩ (congrArg Phase.lifecycles ht) hst

/-- The inputs are no part of it. -/
theorem ControlInv.withInputs (h : ControlInv s) (rst : Bool) (host : List HostWord) (grants timers : List Bool)
    (bus : List (Option BusAnswer)) :
    ControlInv { s with rst := rst, hostIn := host, grantIn := grants, timerIn := timers, busIn := bus } where
  __ := h

/-- A response that ends neither INIT nor READ leaves the history as it is (R92, R254). -/
theorem ControlInv.respond (h : ControlInv s) {c : ErrKind} {p : Payload}
    (hr : Response.endsDriverOperation ⟨c, p⟩ = false) : ControlInv (s.respond c p) where
  __ := h
  errHistory hp := by simpa [lastCode_append, hr] using h.errHistory hp
  readHistory hp := by simpa [hr] using h.readHistory hp

/-- The error entry (R255, R256), from an operation that had cleared RD_VALID. -/
theorem ControlInv.raise {e : ErrKind} (hv : s.rdValid = false)
    (he : e = .transport ∨ e = .calibration ∨ e = .timeout) : ControlInv (s.raise e) where
  idleReleased _ := rfl
  lifecycle := by rcases he with rfl | rfl | rfl <;> simp [ErrKind.stateAfter, Phase.lifecycles]
  runningClean h := absurd rfl h
  readingReady h := by simp [hv] at h
  faultedErr h := by rcases he with rfl | rfl | rfl <;> simp_all [ErrKind.stateAfter]
  timeoutReady _ h := by simp_all [ErrKind.stateAfter]
  errHistory _ := by simp [lastCode_append, endsDriverOperation_of_error _ he]
  readHistory _ := by
    have hread : Response.isReading ⟨e, .nothing⟩ = false := by rcases he with rfl | rfl | rfl <;> rfl
    simp [hv, endsDriverOperation_of_error _ he, hread]

/-- The end of a successful INIT or READ (R131, R140): RD_VALID says which of them it was. -/
theorem ControlInv.finish {p : Payload} (he : s.err = .none) (hd : Response.endsDriverOperation ⟨.none, p⟩ = true)
    (hv : s.rdValid = Response.isReading ⟨.none, p⟩) : ControlInv (s.finish p) where
  idleReleased _ := rfl
  lifecycle := by simp [Phase.lifecycles]
  runningClean h := absurd rfl h
  readingReady _ := ⟨rfl, he⟩
  faultedErr h := by simp at h
  timeoutReady _ _ := rfl
  errHistory _ := by simp [lastCode_append, hd, he]
  readHistory _ := by simp [hd, hv]

/-- Reset (R42). -/
theorem ControlInv.of_reset (hd : s.dstate = .uninitialized) (hp : s.phase = .idle) (he : s.err = .none)
    (hv : s.rdValid = false) (hb : s.busReq = false) (hr : s.resp = []) : ControlInv s where
  idleReleased _ := hb
  lifecycle := by simp [hd, hp, Phase.lifecycles]
  runningClean h := absurd hp h
  readingReady h := by simp [hv] at h
  faultedErr h := by simp [hd] at h
  timeoutReady _ h := by simp [he] at h
  errHistory _ := by simp [he, hr, lastCode, lastDriver]
  readHistory _ := by simp [hv, hr, lastDriver]

/-- What ENCODE answers with ends neither INIT nor READ. -/
theorem endsDriverOperation_telemetry {c : Config} {temp hum : B32} {ts : Nat} {p : Payload}
    (h : telemetry c temp hum ts = some p) : Response.endsDriverOperation ⟨.none, p⟩ = false := by
  obtain ⟨sl, hl, -, -, rfl⟩ := (telemetry_eq_some c temp hum ts p).mp h
  rfl

theorem Effect.keeps_controlInv {i : Instr} (he : Effect s i t) (h : ControlInv s) : ControlInv t := by
  cases he with
  | unissued | initIgnored => exact h
  | initAccepted | readAccepted => exact .of_running nofun (by simp [Phase.lifecycles]) ⟨rfl, rfl⟩
  | readRefused | classified | noReading => exact h.respond rfl
  | encoded ts p _ _ ht => exact h.respond (endsDriverOperation_telemetry ht)
  | waits _ b d hi hp => exact h.of_samePhase (Phase.issues_ne_idle hi hp) rfl ⟨rfl, rfl, rfl⟩
  | failed _ b d e hi hp => exact .raise (h.runningClean (Phase.issues_ne_idle hi hp)).2 (.inl rfl)
  | softResetSent b d hp | initCfgSent b d hp | triggerSent b d hp | statusToCheck b d bytes hp
  | pollClear b d bytes hp | pollAgain b d bytes hp | frameStored b d bytes hp =>
    exact h.of_sameLifecycle hp ⟨nofun, nofun⟩ rfl ⟨rfl, rfl, rfl⟩
  | pollTimeout b d bytes hp => exact .raise (h.runningClean (by simp [hp])).2 (.inr (.inr rfl))
  | decoded hp => exact .finish (h.runningClean (by simp [hp])).1 rfl rfl

theorem Move.keeps_controlInv (hm : Move s t) (h : ControlInv s) : ControlInv t := by
  cases hm with
  | reset => exact .of_reset rfl rfl rfl rfl rfl rfl
  | quiet => exact h
  | turnedAway w rest => exact h.withInputs _ rest _ _ _
  | hostOp w rest i _ _ _ _ _ he => exact he.keeps_controlInv (h.withInputs _ rest _ _ _)
  | phaseOp i _ _ _ _ he => exact he.keeps_controlInv h
  | asksForBus g d _ hp => exact h.of_samePhase (by rcases hp with hp | hp <;> simp [hp]) rfl ⟨rfl, rfl, rfl⟩
  | sleeps ts d _ hp =>
    exact h.of_samePhase (by rcases hp with hp | hp | hp | hp <;> simp [hp]) rfl ⟨rfl, rfl, rfl⟩
  | initGranted g d _ hp | readGranted g d _ hp | initDelayOver ts d _ hp | conversionDelayOver ts d _ hp
  | pollDelayOver ts d _ hp => exact h.of_sameLifecycle hp ⟨nofun, nofun⟩ rfl ⟨rfl, rfl, rfl⟩
  | resetDelayOver ts d _ hp =>
    exact .of_running nofun (by simp [Phase.lifecycles]) (h.runningClean (by simp [hp]))
  | calibrated _ hp =>
    obtain ⟨he, hv⟩ := h.runningClean (by simp [hp])
    exact .finish he rfl hv
  | uncalibrated _ hp => exact .raise (h.runningClean (by simp [hp])).2 (.inr (.inl rfl))

/-- It holds in every state of a run. -/
theorem Reachable.controlInv (h : Reachable s) : ControlInv s := by
  induction h with
  | start => exact .of_reset rfl rfl rfl rfl rfl rfl
  | input s rst host grants timers bus _ ih => exact ih.withInputs rst host grants timers bus
  | step s t _ hs ih => exact (Move.of_step hs).keeps_controlInv ih

/-- Settles O53: with PHASE = IDLE the invariant of the control registers is R46, read through the latest response that
ended an INIT or a READ. -/
theorem idleStatesAreConsistent : Obligations.IdleStatesAreConsistent := by
  intro s hs hidle
  have h := hs.controlInv
  refine ⟨h.idleReleased hidle, ?_, ⟨?_, h.readingReady⟩, ?_, h.faultedErr, h.timeoutReady hidle⟩
  · simpa [hidle, Phase.lifecycles] using h.lifecycle
  · rw [h.readHistory hidle, Option.any_eq_true]
  · rw [h.errHistory hidle, lastCode_eq_none_iff]

end Sys2Proof.Machine
end

section
/-! PROOFS. Family 20_memory.md: the bus transactions that a step adds to the trace (O24). -/

namespace Sys2Proof.Machine

variable {s t u : State} {e : Event} {P : Event → Prop}

/-! ## The events of a step -/

theorem newEvents_of_append {l : List Event} (h : t.trace = s.trace ++ l) : newEvents s t = l := by
  simp [newEvents, h]

/-- A bus transaction that the trace of `t` has and the trace of `s` has not satisfies `P`. -/
def AddsOnly (P : Event → Prop) (s t : State) : Prop :=
  ∀ e ∈ newEvents s t, e.isTransaction = true → P e

theorem AddsOnly.of_append {l : List Event} (h : t.trace = s.trace ++ l)
    (hl : ∀ e ∈ l, e.isTransaction = true → P e) : AddsOnly P s t := by
  rwa [AddsOnly, newEvents_of_append h]

/-- A grant event or the end of a delay is no transaction (R78). -/
theorem AddsOnly.of_localEvent (h : t.trace = s.trace ++ [e]) (he : e.isTransaction = false) : AddsOnly P s t :=
  .of_append h (by simp [he])

/-- Nothing is added to the trace but, at the end of INIT or READ, Release()'s event (R72). -/
def OnlyReleases (s t : State) : Prop :=
  t.trace = s.trace ∨ t.trace = s.trace ++ [.rel]

theorem OnlyReleases.addsOnly (h : OnlyReleases s t) : AddsOnly P s t := by
  obtain h | h := h
  · exact .of_append (l := []) (by simpa using h) (by simp)
  · exact .of_localEvent h rfl

/-- One event is logged, and what follows it at most releases the bus. -/
theorem OnlyReleases.addsOnly_of_logged (h : OnlyReleases u t) (hu : u.trace = s.trace ++ [e]) (he : P e) :
    AddsOnly P s t := by
  obtain h | h := h <;> rw [hu] at h
  · exact .of_append h (by simp [he])
  · exact .of_append (l := [e, .rel]) (by simpa using h) (by simp [he, Event.isTransaction])

/-! ## The transactions of one operation -/

/-- BusWrite adds the write of its bytes to 0x38, whatever the answer (R60). -/
theorem State.busWrite_addsOnly (s : State) (bytes : List Byte) {f : State → State} (hf : ∀ u, OnlyReleases u (f u))
    (hP : ∀ ok, P (.write devAddr bytes ok)) : AddsOnly P s (s.busWrite bytes f) := by
  obtain ⟨b, d, h | h | h⟩ := s.busWrite_cases bytes f <;> rw [h]
  · exact (hf _).addsOnly_of_logged rfl (hP true)
  · exact OnlyReleases.addsOnly_of_logged (.inr rfl) rfl (hP false)
  · exact OnlyReleases.addsOnly (.inl rfl)

/-- BusRead adds the read of its length from 0x38, whatever the answer (R61). -/
theorem State.busRead_addsOnly (s : State) (count : Nat) {f : List Byte → State → State}
    (hf : ∀ bytes u, OnlyReleases u (f bytes u)) (hP : ∀ a, P (.read devAddr count a)) :
    AddsOnly P s (s.busRead count f) := by
  obtain ⟨b, d, ⟨bytes, -, h⟩ | ⟨a, -, h⟩ | h⟩ := s.busRead_cases count f <;> rw [h]
  · exact (hf bytes _).addsOnly_of_logged rfl (hP _)
  · exact OnlyReleases.addsOnly_of_logged (.inr rfl) rfl (hP a)
  · exact OnlyReleases.addsOnly (.inl rfl)

/-- Out of its phase `p` an operation adds nothing (log 6), so what holds in `p` holds in the phase of the state. -/
theorem State.inPhase_addsOnly (s : State) {p : Phase} {f : State → State} {Q : Phase → Event → Prop}
    (hf : AddsOnly (Q p) s (f s)) : AddsOnly (Q s.phase) s (s.inPhase p f) := by
  by_cases h : s.phase = p
  · rwa [State.inPhase_of_eq f h, h]
  · rw [State.inPhase_of_ne f h]
    exact OnlyReleases.addsOnly (.inl rfl)

/-- After the status byte is stored, only the timeout adds an event (R145, R256). -/
theorem State.pollTest_onlyReleases (s : State) : OnlyReleases s s.pollTest := by
  obtain ⟨-, h⟩ | ⟨-, -, h⟩ | ⟨-, -, h⟩ := s.pollTest_cases <;> rw [h]
  · exact .inl rfl
  · exact .inr rfl
  · exact .inl rfl

/-- The five transactions of R62, each with the phase that issues it. -/
inductive IssuedIn : Phase → Event → Prop
  | softReset (ok : Bool) : IssuedIn .iRstW (.write devAddr softResetBytes ok)
  | initCfg (ok : Bool) : IssuedIn .iCfgW (.write devAddr initCfgBytes ok)
  | trigger (ok : Bool) : IssuedIn .mTrgW (.write devAddr triggerBytes ok)
  | initStatus (a : BusAnswer) : IssuedIn .iStR (.read devAddr statusLen a)
  | pollStatus (a : BusAnswer) : IssuedIn .mPollR (.read devAddr statusLen a)
  | frame (a : BusAnswer) : IssuedIn .mFrmR (.read devAddr frameLen a)

/-- The other five operations make no transaction (R62). -/
theorem Effect.onlyReleases {i : Instr} (h : Effect s i t) (hi : i.isTransaction = false) : OnlyReleases s t := by
  cases h with
  | decoded => exact .inr rfl
  | waits _ _ _ ht | failed _ _ _ _ ht => simp [ht] at hi
  | softResetSent | initCfgSent | triggerSent | statusToCheck | pollClear | pollTimeout | pollAgain | frameStored =>
    cases hi
  | _ => exact .inl rfl

theorem execStatusRead_addsOnly (h : execStatusRead s = .next t) : AddsOnly (IssuedIn s.phase) s t := by
  unfold execStatusRead at h
  split at h <;> cases h
  next hp =>
    rw [hp]
    exact s.busRead_addsOnly statusLen (fun _ _ => .inl rfl) .initStatus
  next hp =>
    rw [hp]
    exact s.busRead_addsOnly statusLen (fun bytes u => (u.storeStatus bytes).pollTest_onlyReleases) .pollStatus
  all_goals exact OnlyReleases.addsOnly (.inl rfl)

/-- What an operation adds belongs to the phase that it runs in. -/
theorem exec_addsOnly {i : Instr} (h : exec i s = .next t) : AddsOnly (IssuedIn s.phase) s t := by
  cases i with
  | init | read | classify | encode | decode => exact ((Effect.of_exec h).onlyReleases rfl).addsOnly
  | softReset =>
    cases h
    exact s.inPhase_addsOnly (s.busWrite_addsOnly _ (fun _ => .inl rfl) .softReset)
  | initCfg =>
    cases h
    exact s.inPhase_addsOnly (s.busWrite_addsOnly _ (fun _ => .inl rfl) .initCfg)
  | trigger =>
    cases h
    exact s.inPhase_addsOnly (s.busWrite_addsOnly _ (fun _ => .inl rfl) .trigger)
  | statusRead => exact execStatusRead_addsOnly h
  | frameRead =>
    cases h
    exact s.inPhase_addsOnly (s.busRead_addsOnly _ (fun _ _ => .inl rfl) .frame)

/-! ## The transactions of one step -/

/-- A running phase selects the operation that it issues, on the state as it is (R100). -/
theorem State.select_of_issues {i : Instr} (hp : s.phase ≠ .idle) (hi : s.phase.issues i) : s.select = .run i s := by
  obtain hi | ⟨rfl, hi⟩ := hi
  · cases i with
    | init | read | classify | encode => exact absurd hi hp
    | softReset | initCfg | trigger | statusRead | frameRead | decode => simp [State.select, hi, issuingPhase]
  · simp [State.select, hi]

/-- The host's port carries no wire operation (R91, R108). -/
theorem decode_host_isTransaction {tsBits : Nat} {w : HostWord} {i : Instr}
    (h : Sys2Proof.decode tsBits (.host w) = .ok i) : i.isTransaction = false := by
  simp only [Sys2Proof.decode] at h
  split_ifs at h <;> cases h <;> rfl

/-- Every transaction that a step adds is the one its phase issues (R62). -/
theorem step_addsOnly (h : step s = .next t) : AddsOnly (IssuedIn s.phase) s t := by
  cases Move.of_step h with
  | phaseOp i _ hr hp hi =>
    rw [step_of_run hr (State.select_of_issues hp hi)] at h
    exact exec_addsOnly h
  | hostOp w rest i _ _ _ _ hd he =>
    have hl : OnlyReleases s t := he.onlyReleases (decode_host_isTransaction hd)
    exact hl.addsOnly
  | reset => simp [AddsOnly, newEvents, State.resetNow]
  | initGranted | readGranted | resetDelayOver | initDelayOver | conversionDelayOver | pollDelayOver =>
    exact .of_localEvent rfl rfl
  | calibrated | uncalibrated => exact OnlyReleases.addsOnly (.inr rfl)
  | quiet | turnedAway | asksForBus | sleeps => exact OnlyReleases.addsOnly (.inl rfl)

/-- Settles O24: `IssuedIn` has the five transactions and no other. -/
theorem onlyTheFiveTransactions : Obligations.OnlyTheFiveTransactions := by
  intro s t e h he ht
  have hi := step_addsOnly h e he ht
  generalize s.phase = p at hi ⊢
  cases hi with
  | softReset ok => exact .inl ⟨rfl, ok, rfl⟩
  | initCfg ok => exact .inr (.inl ⟨rfl, ok, rfl⟩)
  | trigger ok => exact .inr (.inr (.inl ⟨rfl, ok, rfl⟩))
  | initStatus a => exact .inr (.inr (.inr (.inl ⟨.inl rfl, a, rfl⟩)))
  | pollStatus a => exact .inr (.inr (.inr (.inl ⟨.inr rfl, a, rfl⟩)))
  | frame a => exact .inr (.inr (.inr (.inr ⟨rfl, a, rfl⟩)))

end Sys2Proof.Machine
end

section
/-! PROOFS. Family 30_encoding.md: FRAME[0] is received, stored and not read (O33). -/

namespace Sys2Proof.Machine

/-! ## Storing the frame -/

/-- BusRead with an answer of the length asked for (R61): the read is logged, and the bytes go on. -/
theorem State.busRead_of_answer {s u : State} {bytes : List Byte} {count : Nat} (f : List Byte → State → State)
    (h : s.busNext = (some (.ok bytes), u)) (hl : bytes.length = count) :
    s.busRead count f = f bytes (u.log (.read devAddr count (.ok bytes))) := by
  simp [State.busRead, h, hl]

/-- FRAME_READ with an answer of six bytes (R154). -/
theorem exec_frameRead_of_answer {s u : State} {bytes : List Byte} (hp : s.phase = .mFrmR)
    (h : s.busNext = (some (.ok bytes), u)) (hl : bytes.length = frameLen) :
    exec .frameRead s = .next
      { u.log (.read devAddr frameLen (.ok bytes)) with frame := frameOfBytes bytes, phase := .mDec } :=
  congrArg _ ((State.inPhase_of_eq _ hp).trans (State.busRead_of_answer _ h hl))

/-! ## Reading the frame -/

/-- DECODE in its phase: the parser, then the end of READ (R181, R140). -/
theorem exec_decode_of_mDec {s : State} (hp : s.phase = .mDec) : exec .decode s = .next s.decodeFrame.endRead :=
  congrArg _ (State.inPhase_of_eq _ hp)

/-- R182 has no term in FRAME[0]. -/
theorem rawHumidity_withByteZero (f : Frame) (x : Byte) : rawHumidity { f with b0 := x } = rawHumidity f := rfl

/-- R183 has no term in FRAME[0]. -/
theorem rawTemperature_withByteZero (f : Frame) (x : Byte) :
    rawTemperature { f with b0 := x } = rawTemperature f := rfl

/-- The parser reads the frame through its two raw fields only, and leaves it as it is (R181). -/
theorem State.decodeFrame_withFrame (s : State) {f : Frame} (hh : rawHumidity f = rawHumidity s.frame)
    (ht : rawTemperature f = rawTemperature s.frame) :
    ({ s with frame := f }).decodeFrame = { s.decodeFrame with frame := f } := by
  simp [State.decodeFrame, hh, ht]

/-- The end of READ forgets the frame, whatever it was (R25). -/
theorem State.endRead_withFrame (s : State) (f : Frame) : ({ s with frame := f }).endRead = s.endRead := rfl

/-- Settles O33: FRAME_READ stores its first byte in FRAME[0]; DECODE takes the two raw fields, which have no term in
FRAME[0], and then forgets the frame. -/
theorem frameByteZeroIsIgnored : Obligations.FrameByteZeroIsIgnored := by
  refine ⟨fun s u f0 f1 f2 f3 f4 f5 hp h => ⟨_, exec_frameRead_of_answer hp h rfl, rfl⟩, fun s x hp => ?_⟩
  have hparse := s.decodeFrame_withFrame (rawHumidity_withByteZero s.frame x) (rawTemperature_withByteZero s.frame x)
  rw [exec_decode_of_mDec hp, exec_decode_of_mDec (by exact hp), hparse, State.endRead_withFrame]

end Sys2Proof.Machine
end

section
/-! PROOFS. Family 40_driver_ops.md: the lifecycle follows its table (O51), the calibration check (O15), and
STATUS_READ in its two phases (O20, O21). -/

namespace Sys2Proof.Machine

variable {s t u : State} {ev : List Event}

/-! ## The lifecycle table, row by row -/

theorem lifecycleAfter_of_rst (hr : s.rst = true) : lifecycleAfter s ev = .uninitialized := by
  simp [lifecycleAfter, hr]

theorem lifecycleAfter_of_quiet (hr : s.rst = false) (hp : s.phase = .idle) (hh : s.hostIn = []) :
    lifecycleAfter s ev = s.dstate := by
  simp [lifecycleAfter, hr, hp, hh]

theorem decode_host_eq_init_iff {tsBits : Nat} {w : HostWord} :
    Sys2Proof.decode tsBits (.host w) = .ok .init ↔ w.code = 0x01#8 := by
  simp only [Sys2Proof.decode]
  split_ifs <;> simp_all

theorem decode_host_eq_read_iff {tsBits : Nat} {w : HostWord} :
    Sys2Proof.decode tsBits (.host w) = .ok .read ↔ w.code = 0x02#8 := by
  simp only [Sys2Proof.decode]
  split_ifs <;> simp_all

/-- The table's two rows for the host's port, by the operation that the presentation decodes to (R91, R158). -/
theorem lifecycleAfter_of_presented {w : HostWord} {rest : List HostWord} (hr : s.rst = false) (hp : s.phase = .idle)
    (hh : s.hostIn = w :: rest) :
    lifecycleAfter s ev =
      if Sys2Proof.decode s.cfg.tsBits (.host w) = .ok .init ∧ s.dstate.admitsInit = true then .resetting
      else if Sys2Proof.decode s.cfg.tsBits (.host w) = .ok .read ∧ s.dstate = .ready then .measuring
      else s.dstate := by
  simp [lifecycleAfter, hr, hp, hh, decode_host_eq_init_iff, decode_host_eq_read_iff]

/-- The table's rows for a phase that issues a bus transaction: a failure comes first, and the last busy answer of
M_POLL_R second (R158, R145). -/
theorem lifecycleAfter_of_transaction {i : Instr} (hr : s.rst = false) (hi : i.isTransaction = true)
    (hp : s.phase.issues i) (ht : t.trace = s.trace ++ ev) :
    lifecycleAfter s (newEvents s t) =
      if ev.any Event.failed = true then .faulted
      else if s.phase = .mPollR ∧ ev.any Event.sawBusy = true ∧ s.pollCnt = s.cfg.pollMax then .ready
      else s.dstate := by
  rw [newEvents_of_append ht]
  obtain hp | ⟨rfl, hp⟩ := hp
  · cases i with
    | init | read | classify | encode | decode => cases hi
    | softReset | initCfg | trigger | statusRead | frameRead => simp [lifecycleAfter, hr, hp, issuingPhase]
  · simp [lifecycleAfter, hr, hp]

/-! ## The events that the table looks at -/

@[simp] theorem Event.failed_write_true (addr : Byte) (bytes : List Byte) :
    (write addr bytes true).failed = false := rfl

@[simp] theorem Event.failed_rel : rel.failed = false := rfl

@[simp] theorem Event.sawBusy_rel : rel.sawBusy = false := rfl

/-- A read of as many bytes as asked for has not failed (R61). -/
theorem Event.failed_read_of_length {addr : Byte} {count : Nat} {bytes : List Byte} (h : bytes.length = count) :
    (read addr count (.ok bytes)).failed = false := by
  simp [failed, h]

/-- A status read of one byte saw BUSY as the byte that it stores has it (R24, R153). -/
theorem Event.sawBusy_statusRead {addr : Byte} {bytes : List Byte} {busy : Bool} (h : bytes.length = statusLen)
    (hb : busyFlag (bytes.getD 0 0) = busy) : (read addr statusLen (.ok bytes)).sawBusy = busy := by
  obtain ⟨b, rfl⟩ := List.length_eq_one_iff.1 h
  exact hb

/-! ## The lifecycle state after an operation and after a step -/

/-- In IDLE the two `accept` lines write DSTATE (R131, R140), and nothing else does. -/
theorem Effect.dstate_of_idle {i : Instr} (h : Effect s i t) (hp : s.phase = .idle) (hi : i.isTransaction = false) :
    t.dstate =
      if i = .init ∧ s.dstate.admitsInit = true then .resetting
      else if i = .read ∧ s.dstate = .ready then .measuring
      else s.dstate := by
  cases h with
  | unissued _ hn =>
    have hinit : i ≠ .init := fun h => hn (.inl (by simp [h, hp, issuingPhase]))
    have hread : i ≠ .read := fun h => hn (.inl (by simp [h, hp, issuingPhase]))
    simp [hinit, hread]
  | initAccepted _ hd | initIgnored _ hd | readAccepted _ hd | readRefused _ hd => simp [hd]
  | classified | encoded => simp
  | noReading _ hk => obtain rfl | ⟨ts, rfl⟩ := hk <;> simp
  | waits _ _ _ ht | failed _ _ _ _ ht => simp [ht] at hi
  | softResetSent | initCfgSent | triggerSent | statusToCheck | pollClear | pollTimeout | pollAgain | frameStored =>
    cases hi
  | decoded hd => simp [hp] at hd

/-- An operation that its phase issues leaves DSTATE as the table says: by the failure of its transaction, by the last
busy answer, or at the end of READ. -/
theorem Effect.dstate_of_phaseOp {i : Instr} (h : Effect s i t) (hr : s.rst = false) (hp : s.phase ≠ .idle)
    (hi : s.phase.issues i) : t.dstate = lifecycleAfter s (newEvents s t) := by
  cases h with
  | unissued _ hn => exact absurd hi hn
  | initAccepted h | initIgnored h | readAccepted h | readRefused h | classified h | encoded _ _ h
  | noReading _ _ h => exact absurd h hp
  | waits _ _ _ ht =>
    rw [lifecycleAfter_of_transaction (ev := []) hr ht hi (by simp)]
    simp
  | failed _ _ _ e ht _ he =>
    rw [lifecycleAfter_of_transaction (ev := [e, .rel]) hr ht hi (by simp)]
    simp [he, ErrKind.stateAfter]
  | softResetSent _ _ h | initCfgSent _ _ h | triggerSent _ _ h =>
    rw [lifecycleAfter_of_transaction hr rfl hi rfl]
    simp [h]
  | statusToCheck _ _ _ h hl | frameStored _ _ _ h hl =>
    rw [lifecycleAfter_of_transaction hr rfl hi rfl]
    simp [h, Event.failed_read_of_length hl]
  | pollClear _ _ _ _ hl hb =>
    rw [lifecycleAfter_of_transaction hr rfl hi rfl]
    simp [Event.failed_read_of_length hl, Event.sawBusy_statusRead hl hb]
  | pollTimeout _ _ bytes h hl hb hc =>
    rw [lifecycleAfter_of_transaction (ev := [.read devAddr statusLen (.ok bytes), .rel]) hr rfl hi (by simp)]
    simp [h, hc, Event.failed_read_of_length hl, Event.sawBusy_statusRead hl hb, ErrKind.stateAfter]
  | pollAgain _ _ _ _ hl _ hc =>
    rw [lifecycleAfter_of_transaction hr rfl hi rfl]
    simp [hc, Event.failed_read_of_length hl]
  | decoded h => simp [lifecycleAfter, hr, h, State.endRead]

/-- Settles O51: each move of a step against its row of the table. -/
theorem lifecycleFollowsItsTable : Obligations.LifecycleFollowsItsTable := by
  intro s t h
  cases Move.of_step h with
  | reset hr => exact (lifecycleAfter_of_rst hr).symm
  | quiet hr hp hh => exact (lifecycleAfter_of_quiet hr hp hh).symm
  | turnedAway w rest e hr hp hh hd =>
    rw [lifecycleAfter_of_presented hr hp hh]
    simp [hd]
  | hostOp w rest i _ hr hp hh hd he =>
    rw [he.dstate_of_idle hp (decode_host_isTransaction hd), lifecycleAfter_of_presented hr hp hh]
    simp [hd]
  | phaseOp i _ hr hp hi he => exact he.dstate_of_phaseOp hr hp hi
  | asksForBus g d hr hp => obtain hp | hp := hp <;> simp [lifecycleAfter, hr, hp]
  | initGranted g d hr hp | readGranted g d hr hp => simp [lifecycleAfter, hr, hp]
  | sleeps ts d hr hp =>
    rw [newEvents_of_append (l := []) (by simp)]
    obtain hp | hp | hp | hp := hp <;> simp [lifecycleAfter, hr, hp]
  | resetDelayOver ts d hr hp =>
    rw [newEvents_of_append rfl]
    simp [lifecycleAfter, hr, hp]
  | initDelayOver ts d hr hp | conversionDelayOver ts d hr hp | pollDelayOver ts d hr hp =>
    simp [lifecycleAfter, hr, hp]
  | calibrated hr hp hc | uncalibrated hr hp hc => simp [lifecycleAfter, hr, hp, hc, ErrKind.stateAfter]

/-! ## The calibration check -/

theorem step_of_iChk (hr : s.rst = false) (hp : s.phase = .iChk) : step s = .next (stepCheck s) :=
  step_of_goTo hr (by simp [State.select, hp])

/-- Settles O15: the check ends INIT by `calFlag`, which is bit 3. -/
theorem calibrationBitAloneDecidesInit : Obligations.CalibrationBitAloneDecidesInit := by
  refine ⟨fun s hr hp => ?_, by decide, by decide⟩
  rw [step_of_iChk hr hp, stepCheck, calFlag]
  cases s.status.getLsbD 3 with
  | false => rfl
  | true => rfl

/-! ## STATUS_READ -/

/-- The error entry right after an event (R255): the whole state that it leaves. -/
theorem State.raise_log (s : State) (e : Event) (k : ErrKind) :
    (s.log e).raise k = { s with
      err := k, dstate := k.stateAfter, busReq := false, phase := .idle
      trace := s.trace ++ [e, .rel], resp := s.resp ++ [⟨k, .nothing⟩] } := by
  simp [State.raise, State.release, State.log, State.respond]

/-- BusRead with `fail`, or with an answer of another length (R61): the read is logged, and TransportError raised. -/
theorem State.busRead_of_failure {a : BusAnswer} {count : Nat} (f : List Byte → State → State)
    (h : s.busNext = (some a, u)) (ha : ∀ bytes : List Byte, bytes.length = count → a ≠ .ok bytes) :
    s.busRead count f = (u.log (.read devAddr count a)).raise .transport := by
  cases a with
  | fail => simp [State.busRead, h]
  | ok bytes =>
    have hl : bytes.length ≠ count := fun hl => ha bytes hl rfl
    simp [State.busRead, h, hl]

theorem exec_statusRead_of_iStR (hp : s.phase = .iStR) :
    exec .statusRead s =
      .next (s.busRead statusLen fun bytes t => { t.storeStatus bytes with phase := .iChk }) := by
  simp [exec, execStatusRead, hp]

theorem exec_statusRead_of_mPollR (hp : s.phase = .mPollR) :
    exec .statusRead s = .next (s.busRead statusLen fun bytes t => (t.storeStatus bytes).pollTest) := by
  simp [exec, execStatusRead, hp]

/-- Log 6: out of its two phases STATUS_READ is not issued. -/
theorem exec_statusRead_of_ne (hi : s.phase ≠ .iStR) (hm : s.phase ≠ .mPollR) : exec .statusRead s = .next s := by
  change execStatusRead s = _
  unfold execStatusRead
  split
  next hp => exact absurd hp hi
  next hp => exact absurd hp hm
  all_goals rfl

/-- R153, R61: in both phases a read that does not bring one byte ends the operation with TransportError. -/
theorem exec_statusRead_of_failure {a : BusAnswer} (hp : s.phase = .iStR ∨ s.phase = .mPollR)
    (h : s.busNext = (some a, u)) (ha : ∀ b : Byte, a ≠ .ok [b]) :
    exec .statusRead s = .next { u with
      err := .transport, dstate := .faulted, busReq := false, phase := .idle
      trace := u.trace ++ [.read devAddr statusLen a, .rel], resp := u.resp ++ [⟨.transport, .nothing⟩] } := by
  have hlen : ∀ bytes : List Byte, bytes.length = statusLen → a ≠ .ok bytes := by
    intro bytes hl
    obtain ⟨b, rfl⟩ := List.length_eq_one_iff.1 hl
    exact ha b
  obtain hp | hp := hp
  · rw [exec_statusRead_of_iStR hp, State.busRead_of_failure _ h hlen, State.raise_log]
    rfl
  · rw [exec_statusRead_of_mPollR hp, State.busRead_of_failure _ h hlen, State.raise_log]
    rfl

/-- INIT's status read of one byte (R131). -/
theorem exec_statusRead_toCheck {b : Byte} (hp : s.phase = .iStR) (h : s.busNext = (some (.ok [b]), u)) :
    exec .statusRead s = .next { u with
      status := b, phase := .iChk, trace := u.trace ++ [.read devAddr statusLen (.ok [b])] } := by
  rw [exec_statusRead_of_iStR hp, State.busRead_of_answer (count := statusLen) _ h rfl]
  rfl

/-- READ's status read of one byte: the byte is stored, then the busy test (R140). -/
theorem exec_statusRead_toPollTest {b : Byte} (hp : s.phase = .mPollR) (h : s.busNext = (some (.ok [b]), u)) :
    exec .statusRead s =
      .next (State.log (.read devAddr statusLen (.ok [b])) { u with status := b }).pollTest := by
  rw [exec_statusRead_of_mPollR hp, State.busRead_of_answer (count := statusLen) _ h rfl]
  rfl

/-- The busy test does not touch STATUS (R255). -/
theorem State.pollTest_status (s : State) : s.pollTest.status = s.status := by
  obtain ⟨-, h⟩ | ⟨-, -, h⟩ | ⟨-, -, h⟩ := s.pollTest_cases <;> rw [h]
  rfl

/-- Settles O20: the byte is stored in both phases, and a failure goes to the error entry. -/
theorem statusReadStoresItsByte : Obligations.StatusReadStoresItsByte := by
  refine fun s u => ⟨fun hp => ⟨fun b h => ?_, fun a h ha => exec_statusRead_of_failure hp h ha⟩,
    exec_statusRead_of_ne⟩
  obtain hp | hp := hp
  · exact ⟨_, exec_statusRead_toCheck hp h, rfl, fun _ => rfl⟩
  · exact ⟨_, exec_statusRead_toPollTest hp h, State.pollTest_status _, fun hi => by simp [hp] at hi⟩

/-- Taking a bus answer leaves the retry count and its bound (R76). -/
theorem State.busNext_poll {a : Option BusAnswer} (h : s.busNext = (a, u)) :
    u.pollCnt = s.pollCnt ∧ u.cfg = s.cfg := by
  obtain ⟨b, d, hu⟩ := s.busNext_frame
  rw [h] at hu
  subst hu
  exact ⟨rfl, rfl⟩

/-- Settles O21: BusRead looks at the transport; only after a byte comes `pollTest`, whose two branches are the
flag's and the counter's, the timeout through the error entry. -/
theorem pollLooksAtTransportThenFlagThenCounter : Obligations.PollLooksAtTransportThenFlagThenCounter := by
  refine fun s u hp => ⟨fun a h ha => exec_statusRead_of_failure (.inr hp) h ha, fun b h => ?_⟩
  obtain ⟨hcnt, hcfg⟩ := State.busNext_poll h
  rw [exec_statusRead_toPollTest hp h, ← hcnt, ← hcfg]
  unfold State.pollTest
  rw [State.raise_log]
  rfl

end Sys2Proof.Machine
end

section
/-! PROOFS. Family 41_decoder.md: which bits of the frame are which bits of the two raw fields (O32), and DECODE with
the end of READ (O31). -/

namespace Sys2Proof.Machine

/-! ## The raw fields on naturals (R182, R183) -/

/-- The fields of an append lie apart, so its value is a sum (R182: `|` is the same as `+`). -/
theorem toNat_append_eq_add {m n : Nat} (x : BitVec m) (y : BitVec n) :
    (x ++ y).toNat = x.toNat * 2 ^ n + y.toNat := by
  rw [BitVec.toNat_append, ← Nat.shiftLeft_add_eq_or_of_lt y.isLt, Nat.shiftLeft_eq]

theorem highNibble_toNat (b : Byte) : (b.extractLsb' 4 4).toNat = b.toNat >>> 4 := by
  have hb : b.toNat >>> 4 < 2 ^ 4 := by
    rw [Nat.shiftRight_eq_div_pow]
    omega
  rw [BitVec.extractLsb'_toNat, Nat.mod_eq_of_lt hb]

theorem lowNibble_toNat (b : Byte) : (b.extractLsb' 0 4).toNat = b.toNat % 2 ^ 4 := by
  rw [BitVec.extractLsb'_toNat, Nat.shiftRight_zero]

theorem rawHumidity_toNat_eq_or (f : Frame) :
    (rawHumidity f).toNat = (f.b1.toNat <<< 12) ||| (f.b2.toNat <<< 4) ||| (f.b3.toNat >>> 4) := by
  rw [rawHumidity_eq_append, BitVec.toNat_append, BitVec.toNat_append, highNibble_toNat, Nat.shiftLeft_or_distrib,
    ← Nat.shiftLeft_add]

theorem rawTemperature_toNat_eq_or (f : Frame) :
    (rawTemperature f).toNat = ((f.b3.toNat &&& 0x0F) <<< 16) ||| (f.b4.toNat <<< 8) ||| f.b5.toNat := by
  rw [rawTemperature_eq_append, BitVec.toNat_append, BitVec.toNat_append, lowNibble_toNat, Nat.shiftLeft_or_distrib,
    ← Nat.shiftLeft_add, ← Nat.and_two_pow_sub_one_eq_mod]

theorem rawHumidity_eq_ofNat (f : Frame) :
    rawHumidity f = BitVec.ofNat 20 (f.b1.toNat * 2 ^ 12 + f.b2.toNat * 2 ^ 4 + f.b3.toNat / 2 ^ 4) := by
  have hsum : (rawHumidity f).toNat = f.b1.toNat * 2 ^ 12 + f.b2.toNat * 2 ^ 4 + f.b3.toNat / 2 ^ 4 := by
    rw [rawHumidity_eq_append, toNat_append_eq_add, toNat_append_eq_add, highNibble_toNat, Nat.shiftRight_eq_div_pow]
    omega
  rw [← hsum, BitVec.ofNat_toNat, BitVec.setWidth_eq]

theorem rawTemperature_eq_ofNat (f : Frame) :
    rawTemperature f = BitVec.ofNat 20 (f.b3.toNat % 2 ^ 4 * 2 ^ 16 + f.b4.toNat * 2 ^ 8 + f.b5.toNat) := by
  have hsum : (rawTemperature f).toNat = f.b3.toNat % 2 ^ 4 * 2 ^ 16 + f.b4.toNat * 2 ^ 8 + f.b5.toNat := by
    rw [rawTemperature_eq_append, toNat_append_eq_add, toNat_append_eq_add, lowNibble_toNat]
    omega
  rw [← hsum, BitVec.ofNat_toNat, BitVec.setWidth_eq]

/-! ## The bits of a word of three fields -/

section
variable {l m n : Nat} (x : BitVec l) (y : BitVec m) (z : BitVec n)

theorem extractLsb'_high_of_three : (x ++ y ++ z).extractLsb' (n + m) l = x := by
  rw [BitVec.extractLsb'_append_eq_of_le (Nat.le_add_right n m), Nat.add_sub_cancel_left,
    BitVec.extractLsb'_append_eq_left]

theorem extractLsb'_middle_of_three : (x ++ y ++ z).extractLsb' n m = y := by
  rw [BitVec.extractLsb'_append_eq_of_le (Nat.le_refl n), Nat.sub_self, BitVec.extractLsb'_append_eq_right]

end

/-- Settles O32: each raw field is three frame fields one after the other, and its bits are theirs. -/
theorem rawFieldsArePackedBigEndian : Obligations.RawFieldsArePackedBigEndian := by
  intro f
  obtain ⟨h19, h11, h3⟩ : (rawHumidity f).extractLsb' 12 8 = f.b1 ∧ (rawHumidity f).extractLsb' 4 8 = f.b2 ∧
      (rawHumidity f).extractLsb' 0 4 = f.b3.extractLsb' 4 4 := by
    rw [rawHumidity_eq_append]
    exact ⟨extractLsb'_high_of_three _ _ _, extractLsb'_middle_of_three _ _ _, BitVec.extractLsb'_append_eq_right⟩
  obtain ⟨t19, t15, t7⟩ : (rawTemperature f).extractLsb' 16 4 = f.b3.extractLsb' 0 4 ∧
      (rawTemperature f).extractLsb' 8 8 = f.b4 ∧ (rawTemperature f).extractLsb' 0 8 = f.b5 := by
    rw [rawTemperature_eq_append]
    exact ⟨extractLsb'_high_of_three _ _ _, extractLsb'_middle_of_three _ _ _, BitVec.extractLsb'_append_eq_right⟩
  exact ⟨h19, h11, h3, t19, t15, t7, rawHumidity_toNat_eq_or f, rawTemperature_toNat_eq_or f⟩

/-! ## DECODE -/

/-- The end of READ (R140, R148, R25): the whole state that it leaves. -/
theorem State.endRead_eq (s : State) : s.endRead = { s with
    rdValid := true, dstate := .ready, busReq := false, phase := .idle
    frame := Config.freeFrame s.draws, draws := s.draws + 1
    trace := s.trace ++ [.rel], resp := s.resp ++ [⟨.none, .reading s.temp s.hum⟩] } := rfl

/-- Settles O31: DECODE in its phase is the parser and then the end of READ; the parser's raw fields are the formulas
on naturals. -/
theorem decodeWritesTheReading : Obligations.DecodeWritesTheReading := by
  intro s hp
  rw [exec_decode_of_mDec hp, State.endRead_eq, ← rawHumidity_eq_ofNat, ← rawTemperature_eq_ofNat]
  rfl

end Sys2Proof.Machine
end

section
/-! PROOFS. Family 42_classifier.md: the indicator bits as exact comparisons (O39), when the two temperature bits meet
(O40), and what CLASSIFY answers (O41). -/

namespace Sys2Proof

/-! ## The order of the patterns (R205) -/

theorem B32.lt_eq_true_iff (a b : B32) :
    B32.lt a b = true ↔ a.isNaN = false ∧ b.isNaN = false ∧ a.scaled < b.scaled := by
  simp [B32.lt, and_assoc]

theorem B32.lt_eq_decide {a b : B32} (ha : a.isNaN = false) (hb : b.isNaN = false) :
    B32.lt a b = decide (a.scaled < b.scaled) := by
  simp [B32.lt, ha, hb]

/-- The sign does not touch the magnitude. -/
theorem B32.natAbs_scaled (v : B32) : v.scaled.natAbs = v.mag := by
  unfold B32.scaled
  split_ifs <;> simp

/-- A significand has at most 24 bits. -/
theorem B32.mag_lt_of_expo (v : B32) : v.mag < 2 ^ 24 * 2 ^ (v.expo - 1) := by
  have hfrac : v.frac < 2 ^ 23 := Nat.mod_lt _ (Nat.two_pow_pos 23)
  unfold B32.mag
  split_ifs with he
  · rw [he]
    omega
  · exact Nat.mul_lt_mul_of_pos_right (by omega) (Nat.two_pow_pos _)

/-- The exponent field of a finite pattern is at most 254, which keeps it below the magnitude of an infinity. -/
theorem B32.mag_lt_of_isFinite {v : B32} (h : v.isFinite = true) : v.mag < 2 ^ 24 * 2 ^ 253 := by
  have hmod : v.expo < 2 ^ 8 := Nat.mod_lt _ (Nat.two_pow_pos 8)
  have hne : v.expo ≠ 255 := by simpa [B32.isFinite] using h
  calc v.mag < 2 ^ 24 * 2 ^ (v.expo - 1) := v.mag_lt_of_expo
    _ ≤ 2 ^ 24 * 2 ^ 253 := Nat.mul_le_mul_left _ (Nat.pow_le_pow_right (by omega) (by omega))

theorem B32.scaled_posInfinity : B32.scaled 0x7F800000#32 = 2 ^ 24 * 2 ^ 253 := by decide

theorem B32.scaled_negInfinity : B32.scaled 0xFF800000#32 = -(2 ^ 24 * 2 ^ 253) := by decide

theorem B32.scaled_negZero : B32.scaled 0x80000000#32 = B32.scaled 0x00000000#32 := by decide

theorem B32.scaled_between_infinities {v : B32} (h : v.isFinite = true) :
    B32.scaled 0xFF800000#32 < v.scaled ∧ v.scaled < B32.scaled 0x7F800000#32 := by
  have hmag := B32.mag_lt_of_isFinite h
  rw [← B32.natAbs_scaled] at hmag
  rw [B32.scaled_negInfinity, B32.scaled_posInfinity]
  omega

end Sys2Proof

namespace Sys2Proof.Machine

/-! ## The indicator bits (R200) -/

/-- Settles O39: each bit is one comparison, and a comparison is of exact values with no NaN. -/
theorem classifyComparesStrictly : Obligations.ClassifyComparesStrictly := by
  intro t h lo hi hh
  rw [classify_lowTemp, classify_highTemp, classify_highHumidity]
  refine ⟨B32.lt_eq_true_iff t lo, ?_, ?_, B32.scaled_negZero, fun v => B32.scaled_between_infinities⟩
  · rw [B32.lt_eq_true_iff, and_left_comm]
  · rw [B32.lt_eq_true_iff, and_left_comm]

section
variable {t lo hi : B32} (h hh : B32) (ht : t.isNaN = false) (hlo : lo.isNaN = false) (hhi : hi.isNaN = false)
include ht hlo hhi

/-- Both temperature bits at once: the reading lies strictly between thresholds that are swapped. -/
theorem classify_bothTemps_iff :
    ((classify t h lo hi hh).getLsbD 0 = true ∧ (classify t h lo hi hh).getLsbD 1 = true) ↔
      t.scaled < lo.scaled ∧ hi.scaled < t.scaled := by
  rw [classify_lowTemp, classify_highTemp, B32.lt_eq_decide ht hlo, B32.lt_eq_decide hhi ht, decide_eq_true_iff,
    decide_eq_true_iff]

/-- Neither temperature bit: the reading lies between the thresholds, which it may meet. -/
theorem classify_neitherTemp_iff :
    ((classify t h lo hi hh).getLsbD 0 = false ∧ (classify t h lo hi hh).getLsbD 1 = false) ↔
      lo.scaled ≤ t.scaled ∧ t.scaled ≤ hi.scaled := by
  rw [classify_lowTemp, classify_highTemp, B32.lt_eq_decide ht hlo, B32.lt_eq_decide hhi ht, decide_eq_false_iff_not,
    decide_eq_false_iff_not, not_lt, not_lt]

end

/-- Settles O40: "both" is hi < t < lo and "neither" is lo ≤ t ≤ hi, read in each order of the thresholds. -/
theorem temperatureIndicatorsExclude : Obligations.TemperatureIndicatorsExclude := by
  intro t h lo hi hh ht hlo hhi
  rw [classify_bothTemps_iff h hh ht hlo hhi, classify_neitherTemp_iff h hh ht hlo hhi]
  refine ⟨fun hord => ⟨?_, Iff.rfl⟩, fun _ hhigh hlow => ⟨hlow, hhigh⟩, fun heq => ⟨?_, ?_⟩⟩
  · rintro ⟨hlow, hhigh⟩
    exact lt_asymm hord (hhigh.trans hlow)
  · rintro ⟨hlow, hhigh⟩
    exact (hhigh.trans hlow).ne heq
  · rw [heq, and_comm, ← le_antisymm_iff]

/-! ## CLASSIFY -/

/-- CLASSIFY while idle is the classifier, which RD_VALID alone guards (R201). -/
theorem exec_classify_of_idle {s : State} (hp : s.phase = .idle) :
    exec .classify s = .next
      (if s.rdValid then s.respond .none (.indicators (classify s.temp s.hum s.thLow s.thHigh s.thHum))
      else s.notReady) :=
  congrArg _ (State.inPhase_of_eq _ hp)

/-- Settles O41: one response by RD_VALID, and nothing else written. -/
theorem classifyAnswersTheIndicators : Obligations.ClassifyAnswersTheIndicators := by
  intro s hp
  rw [exec_classify_of_idle hp]
  constructor
  · intro hv
    rw [if_pos hv, State.respond]
  · intro hv
    rw [if_neg (Bool.eq_false_iff.1 hv), State.notReady, State.respond]

end Sys2Proof.Machine
end

section
/-! PROOFS. Family 43_telemetry.md: the decimal digits of the numbers (O45, O44), what ENCODE answers and when it is
refused (O42, O43), and the lines: their only CR LF (O46) and their lengths (O49). -/

namespace Sys2Proof.Machine

/-! ## The digits of a natural number (R220) -/

theorem digitByte_toNat {d : Nat} (h : d < 10) : (digitByte d).toNat = 0x30 + d := by
  rw [digitByte, BitVec.toNat_ofNat, Nat.mod_eq_of_lt (by omega)]

theorem digitsValue_append_digitByte (ds : List Byte) {d : Nat} (h : d < 10) :
    digitsValue (ds ++ [digitByte d]) = 10 * digitsValue ds + d := by
  simp [digitsValue, digitByte_toNat h]

theorem digitsValue_replicate_zero_append (m : Nat) (ds : List Byte) :
    digitsValue (List.replicate m (digitByte 0) ++ ds) = digitsValue ds := by
  induction m with
  | zero => rfl
  | succ m ih => exact ih

theorem digitsUpTo_ne_nil (fuel n : Nat) : digitsUpTo (fuel + 1) n ≠ [] := by
  rw [digitsUpTo]
  split_ifs <;> simp

/-- Without its last digit a number is one digit shorter. -/
theorem div_ten_lt {n k : Nat} (h : n < 10 ^ (k + 1)) : n / 10 < 10 ^ k :=
  Nat.div_lt_of_lt_mul (by rwa [← pow_succ'])

theorem digitsValue_digitsUpTo {fuel n : Nat} (h : n < 10 ^ fuel) : digitsValue (digitsUpTo fuel n) = n := by
  induction fuel generalizing n with
  | zero => exact (Nat.lt_one_iff.1 h).symm
  | succ fuel ih =>
    rw [digitsUpTo]
    split_ifs with hn
    · exact (digitsValue_append_digitByte [] hn).trans (by simp [digitsValue])
    · rw [digitsValue_append_digitByte _ (Nat.mod_lt n (by decide)), ih (div_ten_lt h)]
      exact Nat.div_add_mod n 10

/-- A leading zero is the digit of zero itself: in front of more digits stands the first digit of `n / 10`. -/
theorem eq_zero_of_digitsUpTo_head? {fuel n : Nat} (h : n < 10 ^ fuel)
    (hz : (digitsUpTo fuel n).head? = some 0x30#8) : n = 0 := by
  induction fuel generalizing n with
  | zero => exact Nat.lt_one_iff.1 h
  | succ fuel ih =>
    rw [digitsUpTo] at hz
    split_ifs at hz with hn
    · have hval := digitByte_toNat hn
      rw [Option.some.inj hz] at hval
      simpa using hval
    · obtain _ | fuel := fuel
      · exact absurd h hn
      · rw [List.head?_append_of_ne_nil _ (digitsUpTo_ne_nil _ _)] at hz
        have := ih (div_ten_lt h) hz
        omega

theorem digitsUpTo_length_le (fuel : Nat) {n k : Nat} (hk : 0 < k) (h : n < 10 ^ k) :
    (digitsUpTo fuel n).length ≤ k := by
  induction fuel generalizing n k with
  | zero => simp [digitsUpTo]
  | succ fuel ih =>
    rw [digitsUpTo]
    split_ifs with hn
    · exact hk
    · obtain _ | _ | k := k
      · contradiction
      · omega
      · have := ih (n := n / 10) k.succ_pos (div_ten_lt h)
        simpa using this

/-- The fuel of `udec` is enough: a number has no more decimal digits than bits. -/
theorem lt_ten_pow_log2_succ (n : Nat) : n < 10 ^ (n.log2 + 1) :=
  Nat.lt_log2_self.trans_le (Nat.pow_le_pow_left (by decide) _)

theorem digitsValue_udec (n : Nat) : digitsValue (udec n) = n :=
  digitsValue_digitsUpTo (lt_ten_pow_log2_succ n)

theorem udec_plainNumber (n : Nat) : plainNumber (udec n) := by
  refine ⟨digitsUpTo_ne_nil _ _, udec_digits n, fun hz => ?_⟩
  rw [eq_zero_of_digitsUpTo_head? (lt_ten_pow_log2_succ n) hz]
  rfl

theorem udec_length_pos (n : Nat) : 0 < (udec n).length :=
  List.length_pos_iff.2 (udec_plainNumber n).1

theorem udec_length_le {n k : Nat} (hk : 0 < k) (h : n < 10 ^ k) : (udec n).length ≤ k :=
  digitsUpTo_length_le _ hk h

/-- Settles O45, from the recursion of `digitsUpTo`: each step appends the last digit. -/
theorem udecReadsBack : Obligations.UdecReadsBack :=
  fun n => ⟨udec_plainNumber n, digitsValue_udec n⟩

/-! ## The digits around the point (R219) -/

theorem digitsValue_decDigits (k n : Nat) : digitsValue (decDigits k n) = k := by
  rw [decDigits, digitsValue_replicate_zero_append, digitsValue_udec]

/-- A non-empty beginning of a plain number is plain: a 0 in front of it is the whole number. -/
theorem plainNumber_take {ds : List Byte} (h : plainNumber ds) {m : Nat} (hm : 0 < m) : plainNumber (ds.take m) := by
  obtain ⟨hne, hdigits, hzero⟩ := h
  refine ⟨by simp [hne, hm.ne'], List.all_eq_true.2 fun b hb =>
    List.all_eq_true.1 hdigits b (List.mem_of_mem_take hb), fun hz => ?_⟩
  rw [List.head?_take, if_neg hm.ne'] at hz
  rw [hzero hz]
  exact List.take_of_length_le hm

/-- The digits before the point: the front of the number's own digits, or the single 0 of the padding. -/
theorem decDigits_take_plainNumber (k n : Nat) :
    plainNumber ((decDigits k n).take ((decDigits k n).length - n)) := by
  rcases Nat.lt_or_ge n (udec k).length with hlong | hshort
  · have hown : decDigits k n = udec k := by simp [decDigits, Nat.sub_eq_zero_of_le hlong]
    rw [hown]
    exact plainNumber_take (udec_plainNumber k) (Nat.sub_pos_of_lt hlong)
  · have hpad : n + 1 - (udec k).length = n - (udec k).length + 1 := Nat.sub_add_comm hshort
    have hlen : (decDigits k n).length - n = 1 := by
      simp only [decDigits, List.length_append, List.length_replicate]
      omega
    rw [hlen, decDigits, hpad, List.replicate_succ]
    exact udec_plainNumber 0

theorem withPoint_eq (n : Nat) (ds : List Byte) :
    withPoint n ds =
      ds.take (ds.length - n) ++ (if n = 0 then [] else 0x2E#8 :: ds.drop (ds.length - n)) := by
  unfold withPoint
  split_ifs with hn <;> simp [hn]

/-- The rounded quotient in integers: at most half a unit away, and even when it is exactly half a unit away. -/
theorem roundHalfEven_dist {b : Nat} (hb : 0 < b) (a : Nat) :
    2 * ((roundHalfEven a b : Int) * b - a).natAbs ≤ b ∧
    (2 * ((roundHalfEven a b : Int) * b - a).natAbs = b → roundHalfEven a b % 2 = 0) := by
  have hdiv := Nat.div_add_mod a b
  have hlt := Nat.mod_lt a hb
  constructor
  · obtain ⟨habove, hbelow⟩ := roundHalfEven_near a b hb
    rw [Nat.mul_assoc] at habove hbelow
    rw [← Nat.cast_mul]
    omega
  · intro htie
    refine roundHalfEven_tie a b ?_
    rw [Nat.mul_comm] at hdiv
    rcases roundHalfEven_cases a b with hk | hk
    · rw [hk, ← Nat.cast_mul] at htie
      omega
    · rw [hk, ← Nat.cast_mul, Nat.add_mul, Nat.one_mul] at htie
      omega

/-- Settles O44: the digits read back as `decScaled`, which is one rounding to even, and the point splits them. -/
theorem decimalsAreRoundedOnceToEven : Obligations.DecimalsAreRoundedOnceToEven := by
  intro v n hv
  set ds := decDigits (decScaled v n) n with hds
  have hlen : n ≤ ds.length := Nat.le_of_succ_le (decDigits_length _ n)
  have hround := roundHalfEven_dist (Nat.two_pow_pos 149) (v.mag * 10 ^ n)
  refine ⟨ds.take (ds.length - n), ds.drop (ds.length - n), ?_, decDigits_take_plainNumber _ n, ?_, ?_, ?_⟩
  · rw [dec_of_finite v n hv, withPoint_eq]
  · rw [List.length_drop, Nat.sub_sub_self hlen]
  · exact List.all_eq_true.2 fun b hb =>
      List.all_eq_true.1 (decDigits_digits _ n) b (List.mem_of_mem_drop hb)
  · rw [List.take_append_drop, hds, digitsValue_decDigits]
    exact_mod_cast hround

/-! ## What ENCODE answers (R216, R228) -/

theorem dec_eq_none_iff (v : B32) (n : Nat) : dec v n = none ↔ v.isFinite = false := by
  simp [dec]

theorem exists_dec_of_finite {v : B32} (h : v.isFinite = true) (n : Nat) : ∃ d, dec v n = some d :=
  ⟨_, dec_of_finite v n h⟩

/-- The two lines of a reading, by the four numbers they print. -/
theorem telemetry_eq_lines_iff {c : Config} {t h : B32} {ts : Nat} {sl hl : List Byte} :
    telemetry c t h ts = some (.lines sl hl) ↔
      ∃ t2 h2 tn hn, dec t 2 = some t2 ∧ dec h 2 = some h2 ∧
        dec t c.humanDp = some tn ∧ dec h c.humanDp = some hn ∧
        sl = lineOf c.sPre c.sMid1 c.sMid2 c.sPost t2 h2 (udec ts) ∧
        hl = lineOf c.hPre c.hMid1 c.hMid2 c.hPost tn hn (udec ts) := by
  simp only [telemetry_eq_some, structuredLine, humanLine, Option.bind_eq_some_iff, Option.map_eq_some_iff]
  constructor
  · rintro ⟨_, _, ⟨t2, ht2, h2, hh2, rfl⟩, ⟨tn, htn, hn, hhn, rfl⟩, hp⟩
    cases hp
    exact ⟨t2, h2, tn, hn, ht2, hh2, htn, hhn, rfl, rfl⟩
  · rintro ⟨t2, h2, tn, hn, ht2, hh2, htn, hhn, rfl, rfl⟩
    exact ⟨_, _, ⟨t2, ht2, h2, hh2, rfl⟩, ⟨tn, htn, hn, hhn, rfl⟩, rfl⟩

theorem telemetry_of_nonFinite (c : Config) {t h : B32} (ts : Nat) (hnf : t.isFinite = false ∨ h.isFinite = false) :
    telemetry c t h ts = none := by
  have hsl : structuredLine c t h ts = none := by
    rcases hnf with ht | hh
    · rw [structuredLine, dec_of_nonFinite t 2 ht, Option.bind_none]
    · simp [structuredLine, dec_of_nonFinite h 2 hh]
  rw [telemetry, hsl, Option.bind_none]

section
variable {s : State} (ts : Nat) (hp : s.phase = .idle)
include hp

theorem exec_encode_of_notReady (hv : s.rdValid = false) : exec (.encode ts) s = .next s.notReady := by
  simp [exec, execEncode, hp, hv]

theorem exec_encode_of_some (hv : s.rdValid = true) {p : Payload}
    (h : telemetry s.cfg s.temp s.hum ts = some p) : exec (.encode ts) s = .next (s.respond .none p) := by
  simp [exec, execEncode, hp, hv, h]

theorem exec_encode_of_none (hv : s.rdValid = true) (h : telemetry s.cfg s.temp s.hum ts = none) :
    exec (.encode ts) s = .refused .nonFiniteReading := by
  simp [exec, execEncode, hp, hv, h]

end

/-- Settles O42: RD_VALID decides, and a finite reading has all four numbers. -/
theorem encodeAnswersTheLines : Obligations.EncodeAnswersTheLines := by
  intro s ts hp
  refine ⟨fun hv => ?_, fun hv ht hh => ?_⟩
  · rw [exec_encode_of_notReady ts hp hv, State.notReady, State.respond]
  · obtain ⟨t2, ht2⟩ := exists_dec_of_finite ht 2
    obtain ⟨h2, hh2⟩ := exists_dec_of_finite hh 2
    obtain ⟨tn, htn⟩ := exists_dec_of_finite ht s.cfg.humanDp
    obtain ⟨hn, hhn⟩ := exists_dec_of_finite hh s.cfg.humanDp
    refine ⟨t2, h2, tn, hn, ht2, hh2, htn, hhn, ?_⟩
    exact exec_encode_of_some ts hp hv
      (telemetry_eq_lines_iff.2 ⟨t2, h2, tn, hn, ht2, hh2, htn, hhn, rfl, rfl⟩)

theorem isFinite_of_normalOrPlusZero {v : B32} (h : v.normalOrPlusZero = true) : v.isFinite = true := by
  simp only [B32.normalOrPlusZero, Bool.or_eq_true, beq_iff_eq, Bool.and_eq_true] at h
  rcases h with rfl | ⟨-, hexpo⟩
  · decide
  · exact hexpo

/-- Settles O43: `dec` asks for a finite value, the formatter for its numbers, and a valid reading lies in its range. -/
theorem encodeRefusesNonFinite : Obligations.EncodeRefusesNonFinite := by
  refine ⟨dec_eq_none_iff, fun s ts hp hv hnf => ?_, fun s hinv hv => ?_⟩
  · exact exec_encode_of_none ts hp hv (telemetry_of_nonFinite s.cfg ts hnf)
  · obtain ⟨-, -, ⟨ht, -⟩, ⟨hh, -⟩⟩ := hinv.readingGood hv
    exact ⟨isFinite_of_normalOrPlusZero ht, isFinite_of_normalOrPlusZero hh⟩

/-! ## The only CR LF of a line (R229) -/

theorem segmentOk_iff (bytes : List Byte) : segmentOk bytes = true ↔ 0x0D#8 ∉ bytes ∧ 0x0A#8 ∉ bytes := by
  simp only [segmentOk, List.all_eq_true, Bool.and_eq_true, bne_iff_ne]
  constructor
  · exact fun h => ⟨fun hcr => (h _ hcr).1 rfl, fun hlf => (h _ hlf).2 rfl⟩
  · rintro ⟨hcr, hlf⟩ b hb
    exact ⟨fun heq => hcr (heq ▸ hb), fun heq => hlf (heq ▸ hb)⟩

theorem segmentOk_append (a b : List Byte) : segmentOk (a ++ b) = (segmentOk a && segmentOk b) :=
  List.all_append

/-- The bytes that numbers are made of are neither CR nor LF. -/
theorem segmentOk_of_numberBytes {d : List Byte} (h : ∀ b ∈ d, isDigit b = true ∨ b = 0x2D#8 ∨ b = 0x2E#8) :
    segmentOk d = true :=
  (segmentOk_iff d).2 ⟨fun hcr => absurd (h _ hcr) (by decide), fun hlf => absurd (h _ hlf) (by decide)⟩

theorem segmentOk_dec {v : B32} {n : Nat} {d : List Byte} (h : dec v n = some d) : segmentOk d = true :=
  segmentOk_of_numberBytes (dec_bytes v n d h)

theorem segmentOk_udec (n : Nat) : segmentOk (udec n) = true :=
  segmentOk_of_numberBytes fun b hb => .inl (List.all_eq_true.1 (udec_digits n) b hb)

/-- A line of admitted segments and numbers is bytes without CR and LF, then CR LF. -/
theorem lineOf_singleLine {pre mid1 mid2 post t h ts : List Byte} (hpre : segmentOk pre = true)
    (hmid1 : segmentOk mid1 = true) (hmid2 : segmentOk mid2 = true) (hpost : segmentOk post = true)
    (ht : segmentOk t = true) (hh : segmentOk h = true) (hts : segmentOk ts = true) :
    ∃ b, lineOf pre mid1 mid2 post t h ts = b ++ [0x0D#8, 0x0A#8] ∧ 0x0D#8 ∉ b ∧ 0x0A#8 ∉ b := by
  refine ⟨pre ++ t ++ mid1 ++ h ++ mid2 ++ ts ++ post, rfl, (segmentOk_iff _).1 ?_⟩
  simp only [segmentOk_append, hpre, hmid1, hmid2, hpost, ht, hh, hts, Bool.and_self]

/-- Settles O46: neither the segments nor the numbers hold a CR or an LF. -/
theorem linesEndInTheirOnlyCrLf : Obligations.LinesEndInTheirOnlyCrLf := by
  refine ⟨by decide, fun c t h ts sl hl hc htel => ?_⟩
  obtain ⟨t2, h2, tn, hn, ht2, hh2, htn, hhn, rfl, rfl⟩ := telemetry_eq_lines_iff.1 htel
  simp only [Config.templatesOk, Bool.and_eq_true] at hc
  obtain ⟨⟨⟨⟨⟨⟨⟨hsPre, hsMid1⟩, hsMid2⟩, hsPost⟩, hhPre⟩, hhMid1⟩, hhMid2⟩, hhPost⟩ := hc
  obtain ⟨b1, hb1, hclean1⟩ := lineOf_singleLine hsPre hsMid1 hsMid2 hsPost (segmentOk_dec ht2) (segmentOk_dec hh2)
    (segmentOk_udec ts)
  obtain ⟨b2, hb2, hclean2⟩ := lineOf_singleLine hhPre hhMid1 hhMid2 hhPost (segmentOk_dec htn) (segmentOk_dec hhn)
    (segmentOk_udec ts)
  exact ⟨b1, b2, hb1, hb2, hclean1, hclean2⟩

/-! ## Lengths (R230) -/

theorem roundHalfEven_le {a b m : Nat} (hb : 0 < b) (h : a ≤ m * b) : roundHalfEven a b ≤ m :=
  calc roundHalfEven a b ≤ roundHalfEven (m * b) b := roundHalfEven_mono _ _ _ h
    _ = m := by rw [roundHalfEven_of_dvd _ _ hb (Nat.dvd_mul_left b m), Nat.mul_div_cancel m hb]

/-- A magnitude of at most `m`, in whole units, has no larger scaled decimal. -/
theorem decScaled_le {v : B32} {m : Nat} (h : v.mag ≤ m * unitsPerOne) (n : Nat) : decScaled v n ≤ m * 10 ^ n :=
  roundHalfEven_le (Nat.two_pow_pos 149) (by
    rw [Nat.mul_right_comm]
    exact Nat.mul_le_mul_right _ h)

theorem decDigits_length_le {k n l : Nat} (hl : n < l) (h : k < 10 ^ l) : (decDigits k n).length ≤ l := by
  have := udec_length_le (Nat.zero_lt_of_lt hl) h
  simp only [decDigits, List.length_append, List.length_replicate]
  omega

theorem withPoint_length {n : Nat} {ds : List Byte} (h : n ≤ ds.length) :
    (withPoint n ds).length = ds.length + if n = 0 then 0 else 1 := by
  unfold withPoint
  split_ifs
  · rfl
  · simp only [List.length_append, List.length_take, List.length_drop, List.length_singleton]
    omega

/-- The bytes of a number: its sign, its digits and its point. -/
theorem dec_length {v : B32} {n : Nat} {d : List Byte} (h : dec v n = some d) :
    d.length =
      (if v.sign then 1 else 0) + ((decDigits (decScaled v n) n).length + if n = 0 then 0 else 1) := by
  have hfin : v.isFinite = true := by
    by_contra hnf
    rw [dec_of_nonFinite v n (Bool.eq_false_iff.2 hnf)] at h
    cases h
  rw [dec_of_finite v n hfin] at h
  rw [← Option.some.inj h, List.length_append, withPoint_length (Nat.le_of_succ_le (decDigits_length _ n))]
  split_ifs <;> rfl

/-- Two digits and a sign down to -50, three digits up to 150: at most three bytes before the point. -/
theorem dec_length_bounds {v : B32} (hlo : -(50 * unitsPerOne : Int) ≤ v.scaled)
    (hhi : v.scaled ≤ (150 * unitsPerOne : Int)) {n : Nat} {d : List Byte} (hd : dec v n = some d) :
    (n + 1 + if n = 0 then 0 else 1) ≤ d.length ∧ d.length ≤ n + 3 + if n = 0 then 0 else 1 := by
  have hmin := decDigits_length (decScaled v n) n
  have hpos : 0 < 10 ^ n := Nat.pow_pos (by decide)
  rw [dec_length hd]
  cases hs : v.sign with
  | true =>
    simp only [B32.scaled, hs, reduceIte] at hlo ⊢
    have hk : decScaled v n ≤ 50 * 10 ^ n := decScaled_le (by omega) n
    have hmax := decDigits_length_le (n := n) (l := n + 2) (by omega) (hk.trans_lt (by rw [Nat.pow_add]; omega))
    omega
  | false =>
    simp only [B32.scaled, hs, Bool.false_eq_true, reduceIte] at hhi ⊢
    have hk : decScaled v n ≤ 150 * 10 ^ n := decScaled_le (by omega) n
    have hmax := decDigits_length_le (n := n) (l := n + 3) (by omega) (hk.trans_lt (by rw [Nat.pow_add]; omega))
    omega

theorem tempInRange_bounds {t : B32} (h : tempInRange t) :
    -(50 * unitsPerOne : Int) ≤ t.scaled ∧ t.scaled ≤ (150 * unitsPerOne : Int) := by
  obtain ⟨-, hlo, hhi⟩ := h
  exact ⟨le_trans (by decide) hlo, hhi.trans (by decide)⟩

theorem humInRange_bounds {h : B32} (hr : humInRange h) :
    -(50 * unitsPerOne : Int) ≤ h.scaled ∧ h.scaled ≤ (150 * unitsPerOne : Int) := by
  obtain ⟨-, hlo, hhi⟩ := hr
  exact ⟨le_trans (by decide) hlo, hhi.trans (by decide)⟩

theorem lineOf_length (pre mid1 mid2 post t h ts : List Byte) :
    (lineOf pre mid1 mid2 post t h ts).length =
      pre.length + mid1.length + mid2.length + post.length + 2 + (t.length + h.length + ts.length) := by
  simp only [lineOf, crlf, List.length_append, List.length_cons, List.length_nil]
  omega

/-- Settles O49: the default segments and CR LF are 43 and 42 bytes, and the numbers have their bounds. -/
theorem linesHaveTheirLengths : Obligations.LinesHaveTheirLengths := by
  intro c t h ts sl hl t2 h2 t0 h0 hc htr hhr htel ht2 hh2 ht0 hh0
  obtain ⟨htlo, hthi⟩ := tempInRange_bounds htr
  obtain ⟨hhlo, hhhi⟩ := humInRange_bounds hhr
  have hlt2 := dec_length_bounds htlo hthi ht2
  have hlh2 := dec_length_bounds hhlo hhhi hh2
  have hlt0 := dec_length_bounds htlo hthi ht0
  have hlh0 := dec_length_bounds hhlo hhhi hh0
  have hpos := udec_length_pos ts
  have hle10 : ts < 2 ^ 32 → (udec ts).length ≤ 10 := fun hts => udec_length_le (by decide) (hts.trans (by decide))
  have hle20 : ts < 2 ^ 64 → (udec ts).length ≤ 20 := fun hts => udec_length_le (by decide) (hts.trans (by decide))
  obtain ⟨t2', h2', tn, hn, ht2', hh2', htn, hhn, rfl, rfl⟩ := telemetry_eq_lines_iff.1 htel
  rw [hc] at htn hhn
  obtain rfl := Option.some.inj (ht2.symm.trans ht2')
  obtain rfl := Option.some.inj (hh2.symm.trans hh2')
  obtain rfl := Option.some.inj (ht0.symm.trans htn)
  obtain rfl := Option.some.inj (hh0.symm.trans hhn)
  have hsl : c.sPre.length + c.sMid1.length + c.sMid2.length + c.sPost.length + 2 = 43 := by rw [hc]; rfl
  have hhl : c.hPre.length + c.hMid1.length + c.hMid2.length + c.hPost.length + 2 = 42 := by rw [hc]; rfl
  rw [lineOf_length, lineOf_length, hsl, hhl]
  simp only [reduceIte, OfNat.ofNat_ne_zero] at hlt2 hlh2 hlt0 hlh0
  omega

end Sys2Proof.Machine
end

section
/-! PROOFS. Family 60_exceptions.md: the refusals, decided at acceptance (O17), and the error entry (O50). -/

namespace Sys2Proof.Machine

/-! ## NotReadyError (R254) -/

/-- READ while idle is its `accept` line, which DSTATE alone guards (R140, R141). -/
theorem exec_read_of_idle {s : State} (hp : s.phase = .idle) :
    exec .read s = .next
      (if s.dstate = .ready then
        { s with err := .none, rdValid := false, pollCnt := 0, dstate := .measuring, phase := .mAcq }
      else s.notReady) :=
  congrArg _ (State.inPhase_of_eq _ hp)

/-- Settles O17: READ is refused outside Ready, CLASSIFY and ENCODE without a valid reading, each by the one answer
NotReadyError. -/
theorem refusedOperationsChangeNothing : Obligations.RefusedOperationsChangeNothing := by
  intro s hp
  refine ⟨fun hd => ?_, fun hv => ⟨?_, fun ts => ?_⟩⟩
  · have hne : s.dstate ≠ .ready := by rcases hd with hd | hd <;> simp [hd]
    rw [exec_read_of_idle hp, if_neg hne, State.notReady, State.respond]
  · exact (classifyAnswersTheIndicators s hp).2 hv
  · exact exec_encode_of_notReady ts hp hv

/-! ## The error entry (R255, R256) -/

/-- A timeout alone leaves the driver in Ready. -/
theorem ErrKind.stateAfter_eq (e : ErrKind) : e.stateAfter = if e = .timeout then .ready else .faulted := by
  cases e <;> rfl

/-- The whole state that the error entry leaves. -/
theorem State.raise_eq (s : State) (e : ErrKind) :
    s.raise e = { s with
      err := e, dstate := e.stateAfter, busReq := false, phase := .idle
      trace := s.trace ++ [.rel], resp := s.resp ++ [⟨e, .nothing⟩] } := rfl

/-- Settles O50: the four registers, the release and the response; only where DSTATE goes looks at the error. -/
theorem errorEntryWritesItsFourRegisters : Obligations.ErrorEntryWritesItsFourRegisters := by
  intro s e _
  rw [State.raise_eq, ErrKind.stateAfter_eq]

end Sys2Proof.Machine
end

section
/-! PROOFS. RN32 and the two unit conversions: RN32 is the nearest value, ties to even (O34); the conversions' exact
parts, order and end values (O35, O36); the two readings of the temperature formula (O37); a reading's range (O38). -/

namespace Sys2Proof

/-- A binary32 magnitude is a multiple of the step `2^e`, or lies below the significands of 24 bits at that step. -/
theorem B32.mag_dvd_or_lt (v : B32) (e : Nat) : 2 ^ e ∣ v.mag ∨ v.mag < 2 ^ 23 * 2 ^ e := by
  rcases Nat.lt_or_ge (v.expo - 1) e with hlt | hge
  · right
    calc v.mag < 2 ^ 24 * 2 ^ (v.expo - 1) := v.mag_lt_of_expo
      _ = 2 ^ 23 * 2 ^ (v.expo - 1 + 1) := by rw [pow_succ]; ring
      _ ≤ 2 ^ 23 * 2 ^ e := Nat.mul_le_mul_left _ (Nat.pow_le_pow_right (by decide) hlt)
  · left
    unfold B32.mag
    split_ifs with h0
    · have he : e = 0 := by omega
      simp [he]
    · exact Dvd.dvd.mul_left (pow_dvd_pow 2 hge) _

end Sys2Proof

namespace Sys2Proof.Machine

/-! ## The nearest multiple -/

/-- Among all integers the rounded quotient is nearest, and one that is just as near makes it even. -/
theorem roundHalfEven_nearest {b : Nat} (hb : 0 < b) (a : Nat) (k : Int) :
    ((roundHalfEven a b : Int) * b - a).natAbs ≤ (k * b - a).natAbs ∧
    (((roundHalfEven a b : Int) * b - a).natAbs = (k * b - a).natAbs → k ≠ roundHalfEven a b →
      roundHalfEven a b % 2 = 0) := by
  obtain ⟨hnear, htie⟩ := roundHalfEven_dist hb a
  by_cases hk : k = roundHalfEven a b
  · exact ⟨by rw [hk], fun _ hne => absurd hk hne⟩
  · have hapart : b ≤ ((k - roundHalfEven a b) * b : Int).natAbs := by
      rw [Int.natAbs_mul, Int.natAbs_natCast]
      exact Nat.le_mul_of_pos_left b (Int.natAbs_pos.2 (sub_ne_zero.2 hk))
    rw [sub_mul] at hapart
    exact ⟨by omega, fun heq _ => htie (by omega)⟩

/-! ## The values that RN32 chooses from -/

/-- The value of a magnitude's RN32, in units of 2^-149. -/
def rnValue (p q : Nat) : Nat := rnSig p q * 2 ^ rnShift p q

/-- A multiple of RN32's step, against a value over `2^q`. -/
theorem step_mul_pow (k : Int) (p q : Nat) :
    k * (2 ^ rnShift p q : Nat) * 2 ^ q = k * (2 ^ (q + rnShift p q) : Nat) := by
  push_cast
  ring

/-- RN32's magnitude is nearest to `p / 2^q` among the integers that have a binary32 magnitude: the multiples of its own
step compete as integers do, and every other one lies below its whole binade. -/
theorem rnValue_nearest (p q : Nat) {w : Int} {v : B32} (hw : w.natAbs = v.mag) :
    (rnValue p q * 2 ^ q - (p * unitsPerOne : Nat) : Int).natAbs ≤ (w * 2 ^ q - (p * unitsPerOne : Nat)).natAbs ∧
    ((rnValue p q * 2 ^ q - (p * unitsPerOne : Nat) : Int).natAbs = (w * 2 ^ q - (p * unitsPerOne : Nat)).natAbs →
      w ≠ rnValue p q → rnSig p q % 2 = 0) := by
  have hnear := roundHalfEven_nearest (Nat.two_pow_pos (q + rnShift p q)) (p * unitsPerOne)
  change ∀ k : Int, (rnSig p q * _ - _ : Int).natAbs ≤ _ ∧ (_ → k ≠ rnSig p q → rnSig p q % 2 = 0) at hnear
  rw [rnValue, Nat.cast_mul, step_mul_pow]
  by_cases hdvd : 2 ^ rnShift p q ∣ v.mag
  · obtain ⟨k, rfl⟩ : ((2 ^ rnShift p q : Nat) : Int) ∣ w := Int.natCast_dvd.2 (hw ▸ hdvd)
    rw [mul_comm _ k, step_mul_pow]
    exact ⟨(hnear k).1, fun heq hne => (hnear k).2 heq fun hk => hne (by rw [hk])⟩
  · have hbelow := (v.mag_dvd_or_lt (rnShift p q)).resolve_left hdvd
    have hbinade := (rnShift_bounds p q).2 fun h0 => hdvd (by simp [h0])
    have hw' : w < (2 ^ 23 : Int) * (2 ^ rnShift p q : Nat) :=
      lt_of_le_of_lt Int.le_natAbs (by exact_mod_cast hw ▸ hbelow)
    have hlt : w * 2 ^ q < 2 ^ 23 * (2 ^ (q + rnShift p q) : Nat) := by
      rw [← step_mul_pow]
      exact mul_lt_mul_of_pos_right hw' (by positivity)
    have hcloser := (hnear (2 ^ 23)).1
    omega

/-- The parity of RN32's pattern is that of its significand: sign and exponent stand above. -/
theorem rn32_toNat_mod_two (x : Int) (q : Nat) (h : x.natAbs < 2 ^ (q + 127)) :
    (rn32 x q).toNat % 2 = rnSig x.natAbs q % 2 := by
  rw [rn32, BitVec.toNat_ofNat, (rn32Mag_eq _ q h).1]
  split_ifs <;> omega

/-- The sign of `x`, which RN32 keeps: without it, RN32's value is that of the magnitude. -/
theorem exists_sign_rn32 (x : Int) (q : Nat) (h : x.natAbs < 2 ^ (q + 127)) :
    ∃ σ : Int, σ.natAbs = 1 ∧ x = σ * x.natAbs ∧ σ * (rn32 x q).scaled = rnValue x.natAbs q := by
  have hval : (rn32 x q).scaled = x.sign * rnValue x.natAbs q := scaled_rn32 x q h
  rcases lt_trichotomy x 0 with hx | rfl | hx
  · exact ⟨-1, rfl, by omega, by rw [hval, Int.sign_eq_neg_one_of_neg hx]; ring⟩
  · exact ⟨1, rfl, rfl, by simp [hval, rnValue, rnSig, rnShift_zero, roundHalfEven]⟩
  · exact ⟨1, rfl, by omega, by rw [hval, Int.sign_eq_one_of_pos hx]; ring⟩

/-- Settles O34: with `x`'s sign taken off, RN32 and any other finite value compete as magnitudes do. -/
theorem rn32IsNearestEven : Obligations.Rn32IsNearestEven := by
  intro x q hx
  refine ⟨isFinite_rn32 x q hx, fun v _ => ?_⟩
  obtain ⟨σ, hσ, hxσ, hrn⟩ := exists_sign_rn32 x q hx
  have hdist (a : Int) : (a * 2 ^ q - x * unitsPerOne).natAbs =
      (σ * a * 2 ^ q - (x.natAbs * unitsPerOne : Nat)).natAbs := by
    have hsq : σ * σ = 1 := by rw [← Int.natAbs_mul_self, hσ]; rfl
    rw [← Nat.one_mul (Int.natAbs (_ - ((x.natAbs * unitsPerOne : Nat) : Int))), ← hσ, ← Int.natAbs_mul]
    congr 1
    conv_lhs => rw [hxσ]
    push_cast
    linear_combination (-a * 2 ^ q) * hsq
  have hv : (σ * v.scaled).natAbs = v.mag := by rw [Int.natAbs_mul, hσ, Nat.one_mul, B32.natAbs_scaled]
  have hnear := rnValue_nearest x.natAbs q hv
  rw [← hrn, ← hdist, ← hdist] at hnear
  rw [rn32_toNat_mod_two x q hx]
  refine ⟨hnear.1, fun heq hne => hnear.2 heq fun h => hne (mul_left_cancel₀ ?_ h)⟩
  rintro rfl
  cases hσ

/-! ## The two conversions (R184, R185) -/

theorem scaled_convH_mono {a b : Raw20} (h : a.toNat ≤ b.toNat) : (convH a).scaled ≤ (convH b).scaled := by
  have ha := a.isLt
  have hb := b.isLt
  exact scaled_rn32_mono _ _ 18 (by omega) (by omega) (by omega)

theorem scaled_convTSingle_mono {a b : Raw20} (h : a.toNat ≤ b.toNat) :
    (convTSingle a).scaled ≤ (convTSingle b).scaled := by
  have ha := a.isLt
  have hb := b.isLt
  exact scaled_rn32_mono _ _ 17 (by omega) (by omega) (by omega)

theorem scaled_convTSingle_exact {r : Raw20} (h : r.toNat < 933233) :
    (convTSingle r).scaled * 2 ^ 17 = (25 * (r.toNat : Int) - 6553600) * unitsPerOne :=
  rn32_exact _ 17 (by omega) (by decide)

theorem convH_zero : convH 0#20 = 0x00000000#32 := by decide

theorem convH_last : convH 0xFFFFF#20 = 0x42C7FFF4#32 := by decide

theorem convTSingle_zero : convTSingle 0#20 = 0xC2480000#32 := by decide

theorem convTSingle_last : convTSingle 0xFFFFF#20 = 0x4315FFF4#32 := by decide

/-- Settles O35: below 671089 the numerator has 24 bits, and RN32 keeps the order. -/
theorem humidityConversion : Obligations.HumidityConversion :=
  ⟨fun _ hr => rn32_exact _ 18 (by omega) (by decide), fun _ _ => scaled_convH_mono, convH_zero, by decide, convH_last⟩

/-- Settles O36: below 933233 the numerator has 24 bits, and RN32 keeps the order. -/
theorem temperatureConversion : Obligations.TemperatureConversion :=
  ⟨fun _ => scaled_convTSingle_exact, fun _ _ => scaled_convTSingle_mono, convTSingle_zero, by decide,
    convTSingle_last⟩

/-! ## The stepwise reading of the temperature formula (R186) -/

theorem roundHalfEven_mul_right (a b : Nat) {c : Nat} (hc : 0 < c) :
    roundHalfEven (a * c) (b * c) = roundHalfEven a b := by
  simp only [roundHalfEven, Nat.mul_mod_mul_right, Nat.mul_div_mul_right _ _ hc, ← Nat.mul_assoc,
    Nat.mul_lt_mul_right hc]

/-- Halving sends an odd number to the even neighbour of its half: up from 3 modulo 4, down from 1. -/
theorem two_mul_roundHalfEven_two (n : Nat) :
    2 * roundHalfEven n 2 = if n % 2 = 0 then n else n + n % 4 - 2 := by
  unfold roundHalfEven
  split_ifs <;> omega

/-- RN32 looks at the value `x / 2^q` and not at the fraction it is given as. -/
theorem rn32_mul_two_pow (x : Int) (q k : Nat) : rn32 (x * 2 ^ k) (q + k) = rn32 x q := by
  have hk : 0 < 2 ^ k := Nat.two_pow_pos k
  have habs : (x * 2 ^ k).natAbs * unitsPerOne = x.natAbs * unitsPerOne * 2 ^ k := by
    rw [Int.natAbs_mul, Int.natAbs_pow]
    exact Nat.mul_right_comm _ _ _
  have hneg : x * 2 ^ k < 0 ↔ x < 0 := by simp [mul_neg_iff, pow_pos]
  have hshift : rnShift (x * 2 ^ k).natAbs (q + k) = rnShift x.natAbs q := by
    rw [rnShift, habs, Nat.pow_add, Nat.mul_div_mul_right _ _ hk, rnShift]
  have hpow : 2 ^ (q + k + rnShift x.natAbs q) = 2 ^ (q + rnShift x.natAbs q) * 2 ^ k := by
    rw [← Nat.pow_add]
    congr 1
    omega
  simp only [rn32, rn32Mag, hneg, hshift, habs, hpow, roundHalfEven_mul_right _ _ hk]

/-- RN32 of `n / 2^17` below 2^8, as a numerator over 2^17: 24 bits are exact, 25 bits are rounded to an even number. -/
def rnNumerator (n : Nat) : Nat := if n < 2 ^ 24 then n else 2 * roundHalfEven n 2

theorem rnNumerator_of_24_bits {n : Nat} (h : n < 2 ^ 24) : rnNumerator n = n := if_pos h

theorem rnNumerator_of_even {n : Nat} (h : n % 2 = 0) : rnNumerator n = n := by
  rw [rnNumerator, two_mul_roundHalfEven_two, if_pos h, ite_self]

theorem rnNumerator_of_odd {n : Nat} (hlo : 2 ^ 24 ≤ n) (h : n % 2 = 1) : rnNumerator n = n + n % 4 - 2 := by
  rw [rnNumerator, two_mul_roundHalfEven_two, if_neg (Nat.not_lt.2 hlo), if_neg (by omega)]

section
variable {n : Nat} (hlo : 2 ^ 24 ≤ n) (hhi : n < 2 ^ 25)
include hlo hhi

theorem rnShift_of_25_bits : rnShift n 17 = 133 := by
  have hlog : (n * unitsPerOne / 2 ^ 17).log2 = 156 := by
    rw [Nat.log2_eq_iff] <;> simp only [unitsPerOne] <;> omega
  rw [rnShift, hlog]

theorem rnSig_of_25_bits : rnSig n 17 = roundHalfEven n 2 := by
  rw [rnSig, rnShift_of_25_bits hlo hhi]
  exact roundHalfEven_mul_right n 2 (c := 2 ^ 149) (by decide)

theorem rn32_of_25_bits : rn32 n 17 = BitVec.ofNat 32 (133 * 2 ^ 23 + roundHalfEven n 2) := by
  rw [rn32, Int.natAbs_natCast, (rn32Mag_eq n 17 (by omega)).1, rnShift_of_25_bits hlo hhi, rnSig_of_25_bits hlo hhi,
    if_neg (by omega), Nat.zero_add]

end

theorem scaled_rn32_eq_rnNumerator {n : Nat} (h : n < 2 ^ 25) : (rn32 n 17).scaled = rnNumerator n * 2 ^ 132 := by
  unfold rnNumerator
  split_ifs with h24
  · have hexact := rn32_exact n 17 h24 (by decide)
    simp only [unitsPerOne] at hexact
    omega
  · have hlo : 2 ^ 24 ≤ n := Nat.le_of_not_lt h24
    rw [scaled_rn32 n 17 (by omega), Int.natAbs_natCast, rnSig_of_25_bits hlo h, rnShift_of_25_bits hlo h,
      Int.sign_eq_one_of_pos (by omega)]
    push_cast
    ring

/-- The stepwise conversion rounds the difference of the first rounding's numerator and 50 degrees. -/
theorem convTStepwise_eq (r : Raw20) :
    convTStepwise r = rn32 ((rnNumerator (25 * r.toNat) : Int) - 6553600) 17 := by
  have hr := r.isLt
  have hfirst := scaled_rn32_eq_rnNumerator (n := 25 * r.toNat) (by omega)
  rw [← rn32_mul_two_pow _ 17 132, convTStepwise]
  push_cast at hfirst
  rw [hfirst]
  simp only [unitsPerOne]
  congr 1
  push_cast
  ring

/-- RN32 of a number of 25 bits is RN32 of what it is rounded to. -/
theorem rn32_rnNumerator {n : Nat} (hlo : 2 ^ 24 ≤ n) (hhi : n + 1 < 2 ^ 25) : rn32 (rnNumerator n) 17 = rn32 n 17 := by
  rcases Nat.mod_two_eq_zero_or_one n with heven | hodd
  · rw [rnNumerator_of_even heven]
  · have hval := rnNumerator_of_odd hlo hodd
    have hhalf := two_mul_roundHalfEven_two n
    have hagain := two_mul_roundHalfEven_two (rnNumerator n)
    rw [if_neg (by omega)] at hhalf
    rw [if_pos (by omega)] at hagain
    rw [rn32_of_25_bits (by omega) (by omega), rn32_of_25_bits hlo (by omega)]
    congr 2
    omega

/-- Outside the odd fields from 671089 to 933231 both readings round the same number, once or twice. -/
theorem convTStepwise_eq_single {r : Raw20} (h : ¬(r.toNat % 2 = 1 ∧ 671089 ≤ r.toNat ∧ r.toNat ≤ 933231)) :
    convTStepwise r = convTSingle r := by
  have hr := r.isLt
  rw [convTStepwise_eq, convTSingle]
  by_cases hexact : r.toNat < 671089 ∨ r.toNat % 2 = 0
  · have hnum : rnNumerator (25 * r.toNat) = 25 * r.toNat := by
      rcases hexact with hlt | heven
      · exact rnNumerator_of_24_bits (by omega)
      · exact rnNumerator_of_even (by omega)
    rw [hnum]
    push_cast
    rfl
  · obtain ⟨n, hn⟩ : ∃ n, 25 * r.toNat = n + 6553600 := ⟨25 * r.toNat - 6553600, by omega⟩
    have hnum : (rnNumerator (25 * r.toNat) : Int) - 6553600 = rnNumerator n := by
      rw [rnNumerator_of_odd (by omega) (by omega), rnNumerator_of_odd (n := n) (by omega) (by omega)]
      omega
    have hcast : 25 * (r.toNat : Int) - 6553600 = n := by omega
    rw [hnum, hcast]
    exact rn32_rnNumerator (by omega) (by omega)

/-- At the odd fields from 671089 to 933231 the first rounding moves the numerator by one, and both second roundings are
exact. -/
theorem scaled_convTStepwise_sub {r : Raw20} (hodd : r.toNat % 2 = 1) (hlo : 671089 ≤ r.toNat)
    (hhi : r.toNat ≤ 933231) : ((convTStepwise r).scaled - (convTSingle r).scaled).natAbs = 2 ^ 132 := by
  have hsingle := scaled_convTSingle_exact (r := r) (by omega)
  have hnum := rnNumerator_of_odd (n := 25 * r.toNat) (by omega) (by omega)
  have hstep := rn32_exact ((rnNumerator (25 * r.toNat) : Int) - 6553600) 17 (by omega) (by decide)
  rw [← convTStepwise_eq] at hstep
  simp only [unitsPerOne] at hsingle hstep
  omega

/-- Settles O37: the two rounds of the stepwise reading differ from one round only where the first is not exact and the
second is. -/
theorem stepwiseDiffersExactlyThere : Obligations.StepwiseDiffersExactlyThere := by
  intro r
  have hiff : convTStepwise r ≠ convTSingle r ↔ r.toNat % 2 = 1 ∧ 671089 ≤ r.toNat ∧ r.toNat ≤ 933231 := by
    refine ⟨fun hne => not_not.1 fun h => hne (convTStepwise_eq_single h), fun ⟨hodd, hlo, hhi⟩ heq => ?_⟩
    have hdiff := scaled_convTStepwise_sub hodd hlo hhi
    simp [heq] at hdiff
  refine ⟨hiff, fun hne => ?_⟩
  obtain ⟨hodd, hlo, hhi⟩ := hiff.1 hne
  exact scaled_convTStepwise_sub hodd hlo hhi

/-! ## The range of a reading (R35, R188) -/

theorem expo_rn32 {x : Int} {q : Nat} (h : x.natAbs < 2 ^ (q + 127)) :
    (rn32 x q).expo = rn32Mag x.natAbs q / 2 ^ 23 := by
  have hfin := (rn32Mag_eq x.natAbs q h).2
  obtain ⟨-, hexpo, -⟩ := B32.ofBits_fields (decide (x < 0)) (rn32Mag x.natAbs q) (by omega)
  simpa [rn32] using hexpo

/-- A value of at least 2^-126 has a full significand. -/
theorem le_rnSig_of_pos {p q : Nat} (hp : 0 < p) (hq : q ≤ 126) : 2 ^ 23 ≤ rnSig p q := by
  by_cases h0 : rnShift p q = 0
  · have hunit : 2 ^ 23 * 2 ^ q ≤ p * unitsPerOne := by
      rw [← Nat.pow_add, unitsPerOne]
      exact (Nat.pow_le_pow_right (by decide) (by omega)).trans (Nat.le_mul_of_pos_left _ hp)
    have hmono := roundHalfEven_mono _ _ (2 ^ q) hunit
    rw [roundHalfEven_of_dvd _ _ (Nat.two_pow_pos q) (Nat.dvd_mul_left _ _),
      Nat.mul_div_cancel _ (Nat.two_pow_pos q)] at hmono
    rwa [rnSig, h0]
  · exact rnSig_ge p q h0

/-- From 2^-126 on RN32 is normal, and a zero is +0. -/
theorem normalOrPlusZero_rn32 {x : Int} {q : Nat} (h : x.natAbs < 2 ^ (q + 127)) (hq : q ≤ 126) :
    (rn32 x q).normalOrPlusZero = true := by
  rcases eq_or_ne x 0 with rfl | hx
  · rw [rn32, Int.natAbs_zero, rn32Mag_zero]
    decide
  · obtain ⟨hmag, hfin⟩ := rn32Mag_eq x.natAbs q h
    have hsig := le_rnSig_of_pos (Int.natAbs_pos.2 hx) hq
    have hexpo : (rn32 x q).expo ≠ 0 ∧ (rn32 x q).expo ≠ 255 := by
      rw [expo_rn32 h]
      omega
    simp [B32.normalOrPlusZero, hexpo]

theorem raw20_le_last (r : Raw20) : r.toNat ≤ (0xFFFFF#20).toNat := Nat.le_of_lt_succ r.isLt

theorem humInRange_convH (r : Raw20) : humInRange (convH r) := by
  have hr := r.isLt
  refine ⟨normalOrPlusZero_rn32 (by omega) (by decide), ?_, ?_⟩
  · exact scaled_convH_mono (a := 0#20) (Nat.zero_le _)
  · rw [← convH_last]
    exact scaled_convH_mono (raw20_le_last r)

theorem tempInRange_convTSingle (r : Raw20) : tempInRange (convTSingle r) := by
  have hr := r.isLt
  refine ⟨normalOrPlusZero_rn32 (by omega) (by decide), ?_, ?_⟩
  · rw [← convTSingle_zero]
    exact scaled_convTSingle_mono (Nat.zero_le _)
  · rw [← convTSingle_last]
    exact scaled_convTSingle_mono (raw20_le_last r)

/-- Where the stepwise reading differs from the other, it lies on the same side of both ends by far. -/
theorem tempInRange_convTStepwise (r : Raw20) : tempInRange (convTStepwise r) := by
  by_cases h : r.toNat % 2 = 1 ∧ 671089 ≤ r.toNat ∧ r.toNat ≤ 933231
  · obtain ⟨hodd, hlo, hhi⟩ := h
    have hsingle := scaled_convTSingle_exact (r := r) (by omega)
    have hdiff := scaled_convTStepwise_sub hodd hlo hhi
    have hnum := rnNumerator_of_odd (n := 25 * r.toNat) (by omega) (by omega)
    have hmin : B32.scaled 0xC2480000#32 = -50 * 2 ^ 149 := by decide
    have hmax : 149 * 2 ^ 149 ≤ B32.scaled 0x4315FFF4#32 := by decide
    refine ⟨?_, ?_, ?_⟩
    · rw [convTStepwise_eq]
      exact normalOrPlusZero_rn32 (by omega) (by decide)
    all_goals
      simp only [unitsPerOne] at hsingle
      omega
  · rw [convTStepwise_eq_single h]
    exact tempInRange_convTSingle r

/-- Settles O38: both conversions round once or twice between their end values. -/
theorem readingsLieInTheirRange : Obligations.ReadingsLieInTheirRange := by
  intro m t h
  cases m with
  | single => exact ⟨tempInRange_convTSingle t, humInRange_convH h⟩
  | stepwise => exact ⟨tempInRange_convTStepwise t, humInRange_convH h⟩

end Sys2Proof.Machine
end

section
/-! PROOFS. The invariant: it holds at reset (O2) and every step keeps it (O3); from it a step always answers (O4),
transactions are made with the grant (O25), Faulted is left only by INIT (O52), and readings come from M_DEC (O54). -/

namespace Sys2Proof.Machine

variable {s t : State}

/-! ## The other part of the invariant -/

/-- The part of `Inv` that `ControlInv` leaves: the grant, the retry count, the busy flag, and the reading. -/
structure DataInv (s : State) : Prop where
  heldWhileBusy : s.phase.holdsBus = true → s.busReq = true
  readingInRange : s.rdValid = true → tempInRange s.temp ∧ humInRange s.hum
  errStored : s.err ≠ .notReady
  fatalFaulted : s.phase = .idle → s.err = .transport ∨ s.err = .calibration → s.dstate = .faulted
  pollBound : s.pollCnt ≤ s.cfg.pollMax
  pollRoom : s.phase = .mPollD → s.pollCnt < s.cfg.pollMax ∧ busyFlag s.status = true
  notBusy : s.phase = .mFrmR ∨ s.phase = .mDec → busyFlag s.status = false
  readingReturned : s.rdValid = true → lastDriver s.resp = some ⟨.none, .reading s.temp s.hum⟩

theorem Inv.dataInv (h : Inv s) : DataInv s where
  __ := h
  readingInRange hv :=
    have ⟨_, _, hr⟩ := h.readingGood hv
    hr
  fatalFaulted hp := (h.errLifecycle hp).2

theorem inv_iff : Inv s ↔ ControlInv s ∧ DataInv s := by
  refine ⟨fun h => ⟨h.controlInv, h.dataInv⟩, fun ⟨hc, hd⟩ => ?_⟩
  exact {
    hc, hd with
    readingGood := fun hv => ⟨(hc.readingReady hv).1, (hc.readingReady hv).2, hd.readingInRange hv⟩
    errLifecycle := fun hp => ⟨hc.timeoutReady hp, hd.fatalFaulted hp⟩ }

/-- While an operation runs, there is no reading, and ERR is clear. -/
theorem DataInv.of_running (hp : s.phase ≠ .idle) (hclean : s.err = .none ∧ s.rdValid = false)
    (hbus : s.phase.holdsBus = true → s.busReq = true) (hpoll : s.pollCnt ≤ s.cfg.pollMax)
    (hroom : s.phase = .mPollD → s.pollCnt < s.cfg.pollMax ∧ busyFlag s.status = true)
    (hclear : s.phase = .mFrmR ∨ s.phase = .mDec → busyFlag s.status = false) : DataInv s where
  heldWhileBusy := hbus
  readingInRange h := by simp [hclean.2] at h
  errStored := by simp [hclean.1]
  fatalFaulted h := absurd h hp
  pollBound := hpoll
  pollRoom := hroom
  notBusy := hclear
  readingReturned h := by simp [hclean.2] at h

/-- The inputs are no part of it. -/
theorem DataInv.withInputs (h : DataInv s) (host : List HostWord) (grants timers : List Bool)
    (bus : List (Option BusAnswer)) (d : Nat) :
    DataInv { s with hostIn := host, grantIn := grants, timerIn := timers, busIn := bus, draws := d } where
  __ := h

/-- A response that ends neither INIT nor READ leaves the latest reading as it is (R92, R254). -/
theorem DataInv.respond (h : DataInv s) {c : ErrKind} {p : Payload}
    (hr : Response.endsDriverOperation ⟨c, p⟩ = false) : DataInv (s.respond c p) where
  __ := h
  readingReturned hv := by simpa [hr] using h.readingReturned hv

/-- The error entry (R255, R256), from an operation that had cleared RD_VALID. -/
theorem DataInv.raise {e : ErrKind} (hv : s.rdValid = false) (hpoll : s.pollCnt ≤ s.cfg.pollMax)
    (he : e = .transport ∨ e = .calibration ∨ e = .timeout) : DataInv (s.raise e) where
  heldWhileBusy := nofun
  readingInRange h := by simp [hv] at h
  errStored := by rcases he with rfl | rfl | rfl <;> simp
  fatalFaulted _ := by rcases he with rfl | rfl | rfl <;> simp [ErrKind.stateAfter]
  pollBound := hpoll
  pollRoom := nofun
  notBusy := by simp
  readingReturned h := by simp [hv] at h

/-- The end of a successful INIT or READ (R131, R140). -/
theorem DataInv.finish {p : Payload} (he : s.err = .none) (hpoll : s.pollCnt ≤ s.cfg.pollMax)
    (hread : s.rdValid = true → p = .reading s.temp s.hum ∧ tempInRange s.temp ∧ humInRange s.hum) :
    DataInv (s.finish p) where
  heldWhileBusy := nofun
  readingInRange h := (hread h).2
  errStored := by simp [he]
  fatalFaulted _ := by simp [he]
  pollBound := hpoll
  pollRoom := nofun
  notBusy := by simp
  readingReturned h := by simp [(hread h).1, Response.endsDriverOperation]

/-- Reset (R42). -/
theorem DataInv.of_reset (hp : s.phase = .idle) (he : s.err = .none) (hv : s.rdValid = false) (hc : s.pollCnt = 0) :
    DataInv s where
  heldWhileBusy h := by simp [hp, Phase.holdsBus] at h
  readingInRange h := by simp [hv] at h
  errStored := by simp [he]
  fatalFaulted _ h := by simp [he] at h
  pollBound := by simp [hc]
  pollRoom h := by simp [hp] at h
  notBusy h := by simp [hp] at h
  readingReturned h := by simp [hv] at h

/-- DECODE and the end of READ: the reading is in its range, and is what the READ returns (R35, R148). -/
theorem DataInv.endRead (he : s.err = .none) (hpoll : s.pollCnt ≤ s.cfg.pollMax) :
    DataInv s.decodeFrame.endRead :=
  .finish he hpoll fun _ => ⟨rfl, readingsLieInTheirRange _ _ _⟩

/-! ## Every step keeps it -/

/-- An operation keeps the invariant's data part; an operation that runs has the grant, and ERR and RD_VALID clear. -/
theorem Effect.keeps_dataInv {i : Instr} (he : Effect s i t) (hc : ControlInv s) (h : DataInv s) : DataInv t := by
  cases he with
  | unissued | initIgnored => exact h
  | initAccepted => exact .of_running nofun ⟨rfl, rfl⟩ nofun h.pollBound nofun (by simp)
  | readAccepted => exact .of_running nofun ⟨rfl, rfl⟩ nofun (Nat.zero_le _) nofun (by simp)
  | readRefused | classified | noReading => exact h.respond rfl
  | encoded ts p _ _ ht => exact h.respond (endsDriverOperation_telemetry ht)
  | waits _ b d => exact h.withInputs s.hostIn s.grantIn s.timerIn b d
  | failed _ b d e hi hp => exact .raise (hc.runningClean (Phase.issues_ne_idle hi hp)).2 h.pollBound (.inl rfl)
  | softResetSent b d hp | initCfgSent b d hp | triggerSent b d hp | statusToCheck b d bytes hp =>
    exact .of_running nofun (hc.runningClean (by simp [hp])) (fun _ => h.heldWhileBusy (by simp [hp, Phase.holdsBus]))
      h.pollBound nofun (by simp)
  | pollClear b d bytes hp _ hb =>
    exact .of_running nofun (hc.runningClean (by simp [hp])) (fun _ => h.heldWhileBusy (by simp [hp, Phase.holdsBus]))
      h.pollBound nofun fun _ => hb
  | pollTimeout b d bytes hp =>
    exact .raise (hc.runningClean (by simp [hp])).2 h.pollBound (.inr (.inr rfl))
  | pollAgain b d bytes hp _ hb hne =>
    exact .of_running nofun (hc.runningClean (by simp [hp])) (fun _ => h.heldWhileBusy (by simp [hp, Phase.holdsBus]))
      h.pollBound (fun _ => ⟨lt_of_le_of_ne h.pollBound hne, hb⟩) (by simp)
  | frameStored b d bytes hp =>
    exact .of_running nofun (hc.runningClean (by simp [hp])) (fun _ => h.heldWhileBusy (by simp [hp, Phase.holdsBus]))
      h.pollBound nofun fun _ => h.notBusy (.inl hp)
  | decoded hp => exact .endRead (hc.runningClean (by simp [hp])).1 h.pollBound

theorem Move.keeps_dataInv (hm : Move s t) (hc : ControlInv s) (h : DataInv s) : DataInv t := by
  cases hm with
  | reset => exact .of_reset rfl rfl rfl rfl
  | quiet => exact h
  | turnedAway w rest => exact h.withInputs rest _ _ _ _
  | hostOp w rest i _ _ _ _ _ he =>
    exact he.keeps_dataInv (hc.withInputs _ rest _ _ _) (h.withInputs rest _ _ _ _)
  | phaseOp i _ _ _ _ he => exact he.keeps_dataInv hc h
  | asksForBus g d _ hp => exact { h.withInputs s.hostIn g s.timerIn s.busIn d with heldWhileBusy := fun _ => rfl }
  | sleeps ts d => exact h.withInputs s.hostIn s.grantIn ts s.busIn d
  | initGranted g d _ hp | readGranted g d _ hp =>
    exact .of_running nofun (hc.runningClean (by simp [hp])) (fun _ => rfl) h.pollBound nofun (by simp)
  | resetDelayOver ts d _ hp | initDelayOver ts d _ hp | conversionDelayOver ts d _ hp =>
    exact .of_running nofun (hc.runningClean (by simp [hp])) (fun _ => h.heldWhileBusy (by simp [hp, Phase.holdsBus]))
      h.pollBound nofun (by simp)
  | pollDelayOver ts d _ hp =>
    exact .of_running nofun (hc.runningClean (by simp [hp])) (fun _ => h.heldWhileBusy (by simp [hp, Phase.holdsBus]))
      (h.pollRoom hp).1 nofun (by simp)
  | calibrated _ hp =>
    obtain ⟨he, hv⟩ := hc.runningClean (by simp [hp])
    exact .finish he h.pollBound fun h => by simp [hv] at h
  | uncalibrated _ hp => exact .raise (hc.runningClean (by simp [hp])).2 h.pollBound (.inr (.inl rfl))

/-- Settles O2, part by part. -/
theorem resetMeetsTheInvariant : Obligations.ResetMeetsTheInvariant :=
  inv_iff.2 ⟨.of_reset rfl rfl rfl rfl rfl rfl, .of_reset rfl rfl rfl rfl⟩

/-- Settles O3: each part of the invariant is kept by every move of a step, the second with the first's help. -/
theorem stepKeepsTheInvariant : Obligations.StepKeepsTheInvariant := by
  intro s t h hs
  have hm := Move.of_step hs
  obtain ⟨hc, hd⟩ := inv_iff.1 h
  exact inv_iff.2 ⟨hm.keeps_controlInv hc, hm.keeps_dataInv hc hd⟩

/-! ## A step always answers -/

/-- Only ENCODE of a valid reading that is not finite stops (R228). -/
theorem exists_exec_eq_next (i : Instr) (h : s.rdValid = true → s.temp.isFinite = true ∧ s.hum.isFinite = true) :
    ∃ t, exec i s = .next t := by
  cases i with
  | encode ts =>
    by_cases hp : s.phase = .idle
    · cases hv : s.rdValid with
      | false => exact ⟨_, exec_encode_of_notReady ts hp hv⟩
      | true =>
        obtain ⟨ht, hh⟩ := h hv
        obtain ⟨_, _, _, _, _, _, _, _, hexec⟩ := (encodeAnswersTheLines s ts hp).2 hv ht hh
        exact ⟨_, hexec⟩
    · exact ⟨s, if_neg hp⟩
  | init | read | classify | softReset | initCfg | trigger | statusRead | frameRead | decode => exact ⟨_, rfl⟩

/-- A running phase selects its operation for the state as it is (R100). -/
theorem State.eq_of_select_running {i : Instr} {u : State} (hp : s.phase ≠ .idle) (h : s.select = .run i u) :
    u = s := by
  cases hq : s.phase with
  | idle => exact absurd hq hp
  | iAcq | iRstD | iCfgD | iChk | mAcq | mCnvD | mPollD => simp [State.select, hq] at h
  | iRstW | iCfgW | iStR | mTrgW | mPollR | mFrmR | mDec =>
    simp only [State.select, hq, Selected.run.injEq] at h
    exact h.2.symm

theorem State.select_of_idle (hp : s.phase = .idle) : s.select = s.selectIdle := by
  simp only [State.select, hp]

/-- The host's operation is selected for the state without its presentation (R130). -/
theorem State.exists_of_select_idle {i : Instr} {u : State} (hp : s.phase = .idle) (h : s.select = .run i u) :
    ∃ w rest, s.hostIn = w :: rest ∧ Sys2Proof.decode s.cfg.tsBits (.host w) = .ok i ∧
      u = { s with hostIn := rest } := by
  rw [State.select_of_idle hp, State.selectIdle] at h
  cases hh : s.hostIn with
  | nil => simp [hh] at h
  | cons w rest =>
    cases hd : Sys2Proof.decode s.cfg.tsBits (.host w) with
    | error e => simp [hh, hd] at h
    | ok j =>
      simp only [hh, hd, Selected.run.injEq] at h
      obtain ⟨rfl, rfl⟩ := h
      exact ⟨w, rest, rfl, hd, rfl⟩

/-- The state that an operation is selected for has the reading of the state before. -/
theorem State.reading_of_select {i : Instr} {u : State} (h : s.select = .run i u) :
    u.rdValid = s.rdValid ∧ u.temp = s.temp ∧ u.hum = s.hum := by
  by_cases hp : s.phase = .idle
  · obtain ⟨w, rest, -, -, rfl⟩ := State.exists_of_select_idle hp h
    exact ⟨rfl, rfl, rfl⟩
  · rw [State.eq_of_select_running hp h]
    exact ⟨rfl, rfl, rfl⟩

/-- Settles O4: what stops a step is an ENCODE of a reading that is not finite, and the invariant shuts it out. -/
theorem stepNeverStops : Obligations.StepNeverStops := by
  intro s h
  obtain ⟨-, -, hfinite⟩ := encodeRefusesNonFinite
  cases hr : s.rst with
  | true => exact ⟨_, step_of_rst hr⟩
  | false =>
    cases hs : s.select with
    | goTo u => exact ⟨u, step_of_goTo hr hs⟩
    | run i u =>
      obtain ⟨hv, ht, hh⟩ := State.reading_of_select hs
      rw [step_of_run hr hs]
      exact exists_exec_eq_next i (hv ▸ ht ▸ hh ▸ hfinite s h)

/-! ## The grant -/

/-- A phase in which a transaction is issued has the grant (R72). -/
theorem IssuedIn.holdsBus {p : Phase} {e : Event} (h : IssuedIn p e) : p.holdsBus = true := by
  cases h <;> rfl

/-- Settles O25: the phase that issued the transaction holds the bus. -/
theorem transactionsHoldTheGrant : Obligations.TransactionsHoldTheGrant :=
  fun _ _ e hinv h he ht => hinv.heldWhileBusy (step_addsOnly h e he ht).holdsBus

/-! ## Faulted -/

theorem Inv.idle_of_faulted (h : Inv s) (hd : s.dstate = .faulted) : s.phase = .idle := by
  by_contra hp
  exact faulted_notMem_lifecycles hp (hd ▸ h.lifecycle)

/-- In Faulted an operation of the host is INIT, or gives at most a response (R257). -/
theorem Effect.of_faulted {i : Instr} (h : Effect s i t) (hp : s.phase = .idle) (hd : s.dstate = .faulted)
    (hi : i.isTransaction = false) : i = .init ∧ t.dstate = .resetting ∨ t = { s with resp := t.resp } := by
  cases h with
  | initAccepted => exact .inl ⟨rfl, rfl⟩
  | unissued | initIgnored | readRefused | classified | encoded | noReading => exact .inr rfl
  | readAccepted _ hready => simp [hd] at hready
  | waits _ _ _ ht | failed _ _ _ _ ht => simp [ht] at hi
  | softResetSent | initCfgSent | triggerSent | statusToCheck | pollClear | pollTimeout | pollAgain | frameStored =>
    cases hi
  | decoded hdec => simp [hp] at hdec

/-- Settles O52: Faulted is idle, so a step is a reset or takes the host's next presentation. -/
theorem faultedIsLeftOnlyByInit : Obligations.FaultedIsLeftOnlyByInit := by
  intro s t hinv hd h
  have hp := hinv.idle_of_faulted hd
  cases Move.of_step h with
  | reset hr => exact .inl hr
  | quiet _ _ hh => exact .inr (.inr (by rw [hh, List.tail_nil, ← hh]))
  | turnedAway w rest e _ _ hh => exact .inr (.inr (by rw [hh, List.tail_cons]))
  | hostOp w rest i _ _ _ hh hdec he =>
    obtain ⟨rfl, ht⟩ | ht := he.of_faulted hp hd (decode_host_isTransaction hdec)
    · rw [decode_host_eq_init_iff] at hdec
      exact .inr (.inl ⟨w.operand, rest, by rw [hh, ← hdec], ht⟩)
    · exact .inr (.inr (by rw [hh, List.tail_cons]; exact ht))
  | phaseOp _ _ _ hne => exact absurd hp hne
  | asksForBus _ _ _ hq | sleeps _ _ _ hq => simp [hp] at hq
  | initGranted _ _ _ hq | readGranted _ _ _ hq | resetDelayOver _ _ _ hq | initDelayOver _ _ _ hq
  | conversionDelayOver _ _ _ hq | pollDelayOver _ _ _ hq | calibrated _ hq | uncalibrated _ hq => simp [hp] at hq

/-! ## Where a reading comes from -/

/-- DECODE in M_DEC alone writes the raw fields and the reading, and then RD_VALID is set (R20, R140). -/
theorem Effect.reading_eq_or_decoded {i : Instr} (h : Effect s i t) :
    (t.rawH = s.rawH ∧ t.rawT = s.rawT ∧ t.temp = s.temp ∧ t.hum = s.hum) ∨
      i = .decode ∧ s.phase = .mDec ∧ t.rdValid = true := by
  cases h with
  | decoded hp => exact .inr ⟨rfl, hp, rfl⟩
  | _ => exact .inl ⟨rfl, rfl, rfl, rfl⟩

theorem Move.reading_eq_or_decoded (h : Move s t) (hr : s.rst = false) :
    (t.temp = s.temp ∧ t.hum = s.hum) ∨ s.phase = .mDec ∧ t.rdValid = true := by
  cases h with
  | reset h => simp [hr] at h
  | hostOp w rest i _ _ _ _ _ he => exact he.reading_eq_or_decoded.imp (fun ⟨_, _, hr⟩ => hr) And.right
  | phaseOp i _ _ _ _ he => exact he.reading_eq_or_decoded.imp (fun ⟨_, _, hr⟩ => hr) And.right
  | _ => exact .inl ⟨rfl, rfl⟩

/-- Settles O54: in M_DEC the invariant has BUSY clear and the grant held. -/
theorem readingsComeFromAClearBusyFlag : Obligations.ReadingsComeFromAClearBusyFlag := by
  intro s t hinv hr h hne
  obtain ⟨ht, hh⟩ | ⟨hp, hv⟩ := (Move.of_step h).reading_eq_or_decoded hr
  · simp [ht, hh] at hne
  · exact ⟨hp, hinv.notBusy (.inr hp), hinv.heldWhileBusy (by simp [hp, Phase.holdsBus]), hv⟩

end Sys2Proof.Machine
end

section
/-! PROOFS. Words and selection: decode and encode agree (O11), the table's words (O12), reset (O1), and which operation
a step runs (O5, O6, O7, O8, O9, O10); what the host can read (O57). -/

namespace Sys2Proof.Machine

variable {s t : State}

/-! ## Decode and encode (R91, R93, R94) -/

theorem decode_encode {tsBits : Nat} {i : Instr} (h : i.wf tsBits = true) :
    Sys2Proof.decode tsBits (encode i) = .ok i := by
  cases i with
  | encode ts =>
    have hts : ts % 2 ^ tsBits = ts := Nat.mod_eq_of_lt (of_decide_eq_true h)
    change Except.ok (Instr.encode (ts % 2 ^ tsBits)) = _
    rw [hts]
  | init | read | classify | softReset | initCfg | trigger | statusRead | frameRead | decode => rfl

theorem encode_of_decode_command {tsBits : Nat} {bytes : List Byte} {i : Instr}
    (h : Sys2Proof.decode tsBits (.command bytes) = .ok i) : encode i = .command bytes := by
  simp only [Sys2Proof.decode] at h
  split_ifs at h with hreset hcfg htrigger <;> cases h
  · rw [hreset, encode]
  · rw [hcfg, encode]
  · rw [htrigger, encode]

theorem encode_of_decode_host {tsBits : Nat} {w : HostWord} {i : Instr}
    (h : Sys2Proof.decode tsBits (.host w) = .ok i) :
    encode i = .host ⟨w.code, if w.code = 0x04#8 then w.operand % 2 ^ tsBits else 0⟩ := by
  simp only [Sys2Proof.decode] at h
  split_ifs at h with hinit hread hclassify hencode <;> cases h
  · rw [hinit]
    rfl
  · rw [hread]
    rfl
  · rw [hclassify]
    rfl
  · rw [hencode]
    rfl

/-- Settles O11: the rows of the table one by one, each way. -/
theorem decodeAndEncodeAgree : Obligations.DecodeAndEncodeAgree :=
  ⟨fun _ _ => decode_encode, fun _ _ _ => encode_of_decode_command, fun _ _ _ => encode_of_decode_host⟩

/-- Settles O12, by evaluation of the decoder. -/
theorem tableWordsDecode : Obligations.TableWordsDecode := by
  unfold Obligations.TableWordsDecode
  decide

/-! ## Reset and the host's view -/

/-- Settles O1: the reset step is `resetNow`, whatever the phase. -/
theorem resetLeavesUninitialized : Obligations.ResetLeavesUninitialized :=
  ⟨⟨rfl, rfl, rfl, rfl, rfl, rfl, rfl, rfl⟩, fun _ hr => step_of_rst hr⟩

/-- Settles O57: the view looks at PHASE first. -/
theorem hostReadsOnlyWhileIdle : Obligations.HostReadsOnlyWhileIdle :=
  fun _ => ⟨fun hp => if_pos hp, fun hp => if_neg hp⟩

/-! ## Selection (R100, R130) -/

theorem State.select_of_presented {w : HostWord} {rest : List HostWord} {i : Instr} (hp : s.phase = .idle)
    (hh : s.hostIn = w :: rest) (hd : Sys2Proof.decode s.cfg.tsBits (.host w) = .ok i) :
    s.select = .run i { s with hostIn := rest } := by
  simp only [State.select_of_idle hp, State.selectIdle, hh, hd]

theorem State.select_of_turnedAway {w : HostWord} {rest : List HostWord} {e : DecodeError} (hp : s.phase = .idle)
    (hh : s.hostIn = w :: rest) (hd : Sys2Proof.decode s.cfg.tsBits (.host w) = .error e) :
    s.select = .goTo { s with hostIn := rest } := by
  simp only [State.select_of_idle hp, State.selectIdle, hh, hd]

theorem State.select_of_quiet (hp : s.phase = .idle) (hh : s.hostIn = []) : s.select = .goTo s := by
  simp only [State.select_of_idle hp, State.selectIdle, hh]

/-- In a running phase the step is the operation that the phase issues. -/
theorem step_of_issues {i : Instr} (hr : s.rst = false) (hp : s.phase ≠ .idle) (hi : s.phase.issues i) :
    step s = exec i s :=
  step_of_run hr (State.select_of_issues hp hi)

theorem step_of_presented {w : HostWord} {rest : List HostWord} {i : Instr} (hr : s.rst = false) (hp : s.phase = .idle)
    (hh : s.hostIn = w :: rest) (hd : Sys2Proof.decode s.cfg.tsBits (.host w) = .ok i) :
    step s = exec i { s with hostIn := rest } :=
  step_of_run hr (State.select_of_presented hp hh hd)

/-- Settles O5, from the port's selection. -/
theorem stepRunsTheDecodedHostOperation : Obligations.StepRunsTheDecodedHostOperation :=
  fun _ _ _ _ => step_of_presented

/-- STATUS_READ is issued in two phases, one of INIT and one of READ (R62). -/
theorem step_of_statusRead (hr : s.rst = false) (hp : s.phase = .iStR ∨ s.phase = .mPollR) :
    step s = exec .statusRead s :=
  have hi : s.phase.issues .statusRead := hp.imp id fun h => ⟨rfl, h⟩
  step_of_issues hr (Phase.issues_ne_idle rfl hi) hi

/-- Settles O6: each of the seven phases issues its operation. -/
theorem stepRunsThePhasesOperation : Obligations.StepRunsThePhasesOperation := by
  intro s hr
  have hissue {i : Instr} {p : Phase} (hne : p ≠ .idle) (hi : p.issues i) (hp : s.phase = p) : step s = exec i s :=
    step_of_issues hr (hp ▸ hne) (hp ▸ hi)
  exact ⟨hissue nofun (.inl rfl), hissue nofun (.inl rfl), hissue nofun (.inl rfl), step_of_statusRead hr,
    hissue nofun (.inl rfl), hissue nofun (.inl rfl)⟩

/-- Settles O8: such a code decodes to an error, and the presentation alone is taken. -/
theorem unknownHostCodeChangesNothing : Obligations.UnknownHostCodeChangesNothing := by
  intro s w rest hr hp hh hinit hread hclassify hencode
  have hd : Sys2Proof.decode s.cfg.tsBits (.host w) = .error (.unknownHostCode w.code) := by
    simp only [Sys2Proof.decode, if_neg hinit, if_neg hread, if_neg hclassify, if_neg hencode]
  exact step_of_goTo hr (State.select_of_turnedAway hp hh hd)

/-- Settles O10, from the port's selection. -/
theorem idleBlockWaitsForTheHost : Obligations.IdleBlockWaitsForTheHost :=
  fun _ hr hp hh => step_of_goTo hr (State.select_of_quiet hp hh)

/-! ## The host is not heard (R130) -/

/-- Log 6: a host operation out of IDLE is not issued. -/
theorem exec_of_running {i : Instr} (hi : issuingPhase i = .idle) (hp : s.phase ≠ .idle) : exec i s = .next s := by
  cases i with
  | init | read | classify => exact congrArg _ (State.inPhase_of_ne _ hp)
  | encode ts => exact if_neg hp
  | softReset | initCfg | trigger | statusRead | frameRead | decode => cases hi

/-- No operation writes the inputs but the bus's answers: reset, the port, and the samples of grant and timer. -/
theorem Effect.inputs_eq {i : Instr} (h : Effect s i t) :
    t.rst = s.rst ∧ t.hostIn = s.hostIn ∧ t.grantIn = s.grantIn ∧ t.timerIn = s.timerIn := by
  cases h <;> exact ⟨rfl, rfl, rfl, rfl⟩

theorem Move.hostIn_eq (h : Move s t) (hr : s.rst = false) (hp : s.phase ≠ .idle) : t.hostIn = s.hostIn := by
  cases h with
  | reset h => simp [hr] at h
  | quiet _ h | turnedAway _ _ _ _ h | hostOp _ _ _ _ _ h => exact absurd h hp
  | phaseOp i _ _ _ _ he =>
    obtain ⟨-, hhost, -⟩ := he.inputs_eq
    exact hhost
  | _ => rfl

/-- Settles O9: none of the four is issued in a running phase, and no move of one looks at the port. -/
theorem hostIsNotHeardWhileRunning : Obligations.HostIsNotHeardWhileRunning := by
  intro s hp
  refine ⟨fun i hi => exec_of_running ?_ hp, fun hr t h => (Move.of_step h).hostIn_eq hr hp⟩
  rcases hi with rfl | rfl | rfl | ⟨ts, rfl⟩ <;> rfl

/-! ## A placed word (log 8) -/

/-- What `firstOp` answers is one of the words, with its operation. -/
theorem firstOp_mem {tsBits : Nat} {l : List OpWord} {word : OpWord} {i : Instr}
    (h : firstOp tsBits l = some (word, i)) : word ∈ l ∧ Sys2Proof.decode tsBits word = .ok i := by
  induction l with
  | nil => cases h
  | cons w rest ih =>
    rw [firstOp] at h
    split at h
    next hd =>
      cases h
      exact ⟨List.mem_cons_self, hd⟩
    next hd =>
      obtain ⟨hmem, hdec⟩ := ih h
      exact ⟨List.mem_cons_of_mem _ hmem, hdec⟩

/-- The operand of a table word has 32 bits (R91). -/
theorem operand_lt_of_mem_ofTable {nbits n : Nat} {w : HostWord} (h : .host w ∈ OpWord.ofTable nbits n) :
    w.operand < 2 ^ tableTsBits := by
  have hpos : 0 < 2 ^ tableTsBits := Nat.two_pow_pos 32
  simp only [OpWord.ofTable] at h
  split_ifs at h <;>
    simp only [List.mem_append, List.mem_cons, List.not_mem_nil, OpWord.host.injEq, reduceCtorEq, or_false,
      or_self] at h
  · rwa [h]
  · rw [h]
    exact Nat.mod_lt _ hpos

/-- A host word's operation is one of the four that IDLE takes. -/
theorem issuingPhase_of_decode_host {tsBits : Nat} {w : HostWord} {i : Instr}
    (h : Sys2Proof.decode tsBits (.host w) = .ok i) : issuingPhase i = .idle := by
  simp only [Sys2Proof.decode] at h
  split_ifs at h <;> cases h <;> rfl

/-- An operand that fits both widths is read alike at both. -/
theorem decode_host_of_operand_lt {m n : Nat} {w : HostWord} {i : Instr} (h : Sys2Proof.decode m (.host w) = .ok i)
    (hw : w.operand < 2 ^ m) (hi : i.wf n = true) : Sys2Proof.decode n (.host w) = .ok i := by
  simp only [Sys2Proof.decode] at h ⊢
  split_ifs at h ⊢ <;> cases h
  · rfl
  · rfl
  · rfl
  · rw [Nat.mod_eq_of_lt hw] at hi ⊢
    rw [Nat.mod_eq_of_lt (of_decide_eq_true hi)]

theorem issuingPhase_ne_idle_of_decode {tsBits : Nat} {word : OpWord} {i : Instr}
    (h : Sys2Proof.decode tsBits word = .ok i) (hw : ∀ w, word ≠ .host w) : issuingPhase i ≠ .idle := by
  cases word with
  | host w => exact absurd rfl (hw w)
  | command bytes | answer bytes | stored bytes =>
    simp only [Sys2Proof.decode] at h
    split_ifs at h <;> cases h <;> nofun

/-- The word is put where the selection finds it: a host word on the port, every other in its operation's phase. -/
theorem step_present {tsBits : Nat} {word : OpWord} {i : Instr} (h : Sys2Proof.decode tsBits word = .ok i)
    (hport : ∀ w, word = .host w → Sys2Proof.decode s.cfg.tsBits (.host w) = .ok i) :
    step (s.present word i) = exec i (s.supply word i) := by
  cases word with
  | host w => exact step_of_presented rfl (issuingPhase_of_decode_host h) rfl (hport w rfl)
  | command bytes | answer bytes | stored bytes =>
    exact step_of_issues rfl (issuingPhase_ne_idle_of_decode h nofun) (.inl rfl)

/-- Settles O7: the table's first word that decodes is presented, and the step selects it. -/
theorem stepRunsThePlacedWord : Obligations.StepRunsThePlacedWord := by
  intro s nbits w i h hwf
  obtain ⟨⟨word, _⟩, hfirst, rfl⟩ := Option.map_eq_some_iff.1 h
  obtain ⟨hmem, hdec⟩ := firstOp_mem hfirst
  refine ⟨word, hmem, hdec, ?_, ?_, ?_, ?_⟩
  · rw [State.withFetchWord, State.presentWord, hfirst]
    refine step_present hdec ?_
    rintro w rfl
    exact decode_host_of_operand_lt hdec (operand_lt_of_mem_ofTable hmem) hwf
  · rintro w rfl
    rw [State.supply, issuingPhase_of_decode_host hdec]
  · rintro bytes rfl
    rfl
  · rintro bytes rfl
    rfl

end Sys2Proof.Machine
end

section
/-! PROOFS. The steps of INIT and READ, phase by phase: acceptance (O13, O16), the inputs (O23), the commands (O19), the
frame (O22), the delays (O27), the wait for the grant (O26), and what a wait leaves as it is (O28). -/

namespace Sys2Proof.Machine

variable {s t u : State}

/-! ## Acceptance (R131, R140) -/

/-- INIT while idle is its `accept` line, which DSTATE alone guards (R131, R132). -/
theorem exec_init_of_idle (hp : s.phase = .idle) :
    exec .init s = .next
      (if s.dstate.admitsInit then { s with err := .none, rdValid := false, dstate := .resetting, phase := .iAcq }
      else s) :=
  congrArg _ (State.inPhase_of_eq _ hp)

/-- Settles O13: the three states are those that admit INIT. -/
theorem initIsAccepted : Obligations.InitIsAccepted := by
  intro s hp hd
  have hadmits : s.dstate.admitsInit = true := by rcases hd with hd | hd | hd <;> rw [hd] <;> rfl
  rw [exec_init_of_idle hp, if_pos hadmits]

/-- Settles O16: READ's guard is Ready. -/
theorem readIsAccepted : Obligations.ReadIsAccepted := by
  intro s hp hd
  rw [exec_read_of_idle hp, if_pos hd]

/-! ## Inputs (R72, R76, R262) -/

/-- Settles O23: an input's list is empty or has a first sample. -/
theorem inputsComeFromTheirLists : Obligations.InputsComeFromTheirLists := by
  intro s
  refine ⟨?_, ?_, ?_⟩
  · cases h : s.busIn <;> simp [State.busNext, h]
  · cases h : s.grantIn <;> simp [State.grantNext, h]
  · cases h : s.timerIn <;> simp [State.timerNext, h]

/-! ## The primitives, by what the agent says (R60, R61, R72, R262) -/

theorem State.busWrite_of_ok {bytes d : List Byte} (f : State → State) (h : s.busNext = (some (.ok d), u)) :
    s.busWrite bytes f = f (u.log (.write devAddr bytes true)) := by
  simp only [State.busWrite, h]

theorem State.busWrite_of_fail {bytes : List Byte} (f : State → State) (h : s.busNext = (some .fail, u)) :
    s.busWrite bytes f = (u.log (.write devAddr bytes false)).raise .transport := by
  simp only [State.busWrite, h]

theorem State.busWrite_of_none {bytes : List Byte} (f : State → State) (h : s.busNext = (none, u)) :
    s.busWrite bytes f = u := by
  simp only [State.busWrite, h]

theorem State.busRead_of_none {count : Nat} (f : List Byte → State → State) (h : s.busNext = (none, u)) :
    s.busRead count f = u := by
  simp only [State.busRead, h]

theorem State.delay_of_over (ms : Nat) (f : State → State) (h : s.timerNext = (true, u)) :
    s.delay ms f = f (u.log (.delay ms)) := by
  simp only [State.delay, h]

theorem State.delay_of_waiting (ms : Nat) (f : State → State) (h : s.timerNext = (false, u)) : s.delay ms f = u := by
  simp only [State.delay, h]

/-- Asking for the bus does not change what the arbiter answers. -/
theorem State.grantNext_withBusReq (s : State) (b : Bool) :
    State.grantNext { s with busReq := b } = (s.grantNext.1, { s.grantNext.2 with busReq := b }) := by
  cases h : s.grantIn <;> simp [State.grantNext, h]

theorem State.acquire_of_granted (p : Phase) (h : s.grantNext = (true, u)) :
    s.acquire p = { u with busReq := true, phase := p, trace := u.trace ++ [.acq] } := by
  simp only [State.acquire, State.grantNext_withBusReq, h]
  rfl

theorem State.acquire_of_waiting (p : Phase) (h : s.grantNext = (false, u)) :
    s.acquire p = { u with busReq := true } := by
  simp only [State.acquire, State.grantNext_withBusReq, h]

/-! ## The commands and the frame (R150 to R154) -/

section
variable {i : Instr} {p q : Phase} {bytes : List Byte}
  (hexec : ∀ s, exec i s = .next (s.inPhase p (State.busWrite bytes fun t => { t with phase := q })))
include hexec

theorem exec_command_of_ok {d : List Byte} (hp : s.phase = p) (h : s.busNext = (some (.ok d), u)) :
    exec i s = .next { u with phase := q, trace := u.trace ++ [.write devAddr bytes true] } := by
  rw [hexec, State.inPhase_of_eq _ hp, State.busWrite_of_ok _ h]
  rfl

theorem exec_command_of_fail (hp : s.phase = p) (h : s.busNext = (some .fail, u)) :
    exec i s = .next { u with
      err := .transport, dstate := .faulted, busReq := false, phase := .idle
      trace := u.trace ++ [.write devAddr bytes false, .rel], resp := u.resp ++ [⟨.transport, .nothing⟩] } := by
  rw [hexec, State.inPhase_of_eq _ hp, State.busWrite_of_fail _ h, State.raise_log]
  rfl

theorem exec_command_of_ne (hp : s.phase ≠ p) : exec i s = .next s := by
  rw [hexec, State.inPhase_of_ne _ hp]

end

/-- Settles O19: the three commands are one form, a BusWrite in a phase. -/
theorem wireCommandsSendTheirBytes : Obligations.WireCommandsSendTheirBytes := by
  intro c hc s u
  have hexec (s : State) :
      exec c.1 s = .next (s.inPhase c.2.1 (State.busWrite c.2.2.1 fun t => { t with phase := c.2.2.2 })) := by
    simp only [List.mem_cons, List.not_mem_nil, or_false] at hc
    rcases hc with rfl | rfl | rfl <;> rfl
  exact ⟨fun hp => ⟨fun _ => exec_command_of_ok hexec hp, exec_command_of_fail hexec hp⟩, exec_command_of_ne hexec⟩

/-- FRAME_READ with `fail`, or with another number of bytes (R154, R61). -/
theorem exec_frameRead_of_failure {a : BusAnswer} (hp : s.phase = .mFrmR) (h : s.busNext = (some a, u))
    (ha : ∀ bytes : List Byte, bytes.length = frameLen → a ≠ .ok bytes) :
    exec .frameRead s = .next { u with
      err := .transport, dstate := .faulted, busReq := false, phase := .idle
      trace := u.trace ++ [.read devAddr frameLen a, .rel], resp := u.resp ++ [⟨.transport, .nothing⟩] } := by
  refine (congrArg _ ((State.inPhase_of_eq _ hp).trans (State.busRead_of_failure _ h ha))).trans ?_
  rw [State.raise_log]
  rfl

/-- Settles O22: BusRead's answer and failure in M_FRM_R. -/
theorem frameReadStoresSixBytes : Obligations.FrameReadStoresSixBytes :=
  fun _ _ => ⟨fun hp => ⟨fun _ _ _ _ _ _ h => exec_frameRead_of_answer hp h rfl,
    fun _ h ha => exec_frameRead_of_failure hp h ha⟩, fun hp => congrArg _ (State.inPhase_of_ne _ hp)⟩

/-! ## The phases that are no operation -/

section
variable (hr : s.rst = false)
include hr

theorem step_of_acquiring (hp : s.phase = .iAcq ∨ s.phase = .mAcq) :
    step s = .next (s.acquire (if s.phase = .iAcq then .iRstW else .mTrgW)) := by
  rcases hp with hp | hp <;> exact step_of_goTo hr (by simp [State.select, stepAcquire, hp])

theorem step_of_iRstD (hp : s.phase = .iRstD) : step s = .next (stepResetDelay s) :=
  step_of_goTo hr (by simp [State.select, hp])

theorem step_of_iCfgD (hp : s.phase = .iCfgD) : step s = .next (stepInitDelay s) :=
  step_of_goTo hr (by simp [State.select, hp])

theorem step_of_mCnvD (hp : s.phase = .mCnvD) : step s = .next (stepConversionDelay s) :=
  step_of_goTo hr (by simp [State.select, hp])

theorem step_of_mPollD (hp : s.phase = .mPollD) : step s = .next (stepPollDelay s) :=
  step_of_goTo hr (by simp [State.select, hp])

/-- A delay that is not over is a step of waiting, in each of the four phases (R262). -/
theorem step_of_sleeping (hp : s.phase = .iRstD ∨ s.phase = .iCfgD ∨ s.phase = .mCnvD ∨ s.phase = .mPollD)
    (h : s.timerNext = (false, u)) : step s = .next u := by
  rcases hp with hp | hp | hp | hp
  · rw [step_of_iRstD hr hp, stepResetDelay, State.delay_of_waiting _ _ h]
  · rw [step_of_iCfgD hr hp, stepInitDelay, State.delay_of_waiting _ _ h]
  · rw [step_of_mCnvD hr hp, stepConversionDelay, State.delay_of_waiting _ _ h]
  · rw [step_of_mPollD hr hp, stepPollDelay, State.delay_of_waiting _ _ h]

theorem step_of_resetDelayOver (hp : s.phase = .iRstD) (h : s.timerNext = (true, u)) :
    step s = .next { u with
      dstate := .awaitingCalibration, phase := .iCfgW, trace := u.trace ++ [.delay s.cfg.tReset] } := by
  rw [step_of_iRstD hr hp, stepResetDelay, State.delay_of_over _ _ h]
  rfl

theorem step_of_initDelayOver (hp : s.phase = .iCfgD) (h : s.timerNext = (true, u)) :
    step s = .next { u with phase := .iStR, trace := u.trace ++ [.delay s.cfg.tInit] } := by
  rw [step_of_iCfgD hr hp, stepInitDelay, State.delay_of_over _ _ h]
  rfl

theorem step_of_conversionDelayOver (hp : s.phase = .mCnvD) (h : s.timerNext = (true, u)) :
    step s = .next { u with phase := .mPollR, trace := u.trace ++ [.delay s.cfg.tConv] } := by
  rw [step_of_mCnvD hr hp, stepConversionDelay, State.delay_of_over _ _ h]
  rfl

theorem step_of_pollDelayOver (hp : s.phase = .mPollD) (h : s.timerNext = (true, u)) :
    step s = .next { u with
      pollCnt := u.pollCnt + 1, phase := .mPollR, trace := u.trace ++ [.delay s.cfg.tPoll] } := by
  rw [step_of_mPollD hr hp, stepPollDelay, State.delay_of_over _ _ h]
  rfl

end

theorem Config.delays_of_wf {c : Config} (h : c.wf = true) :
    20 ≤ c.tReset ∧ 10 ≤ c.tInit ∧ 80 ≤ c.tConv ∧ 10 ≤ c.tPoll := by
  simp only [Config.wf, Config.delaysOk, Bool.and_eq_true, decide_eq_true_eq] at h
  omega

/-- Settles O27: Delay() waits, or logs its event and goes on. -/
theorem delaysWaitForTheTimer : Obligations.DelaysWaitForTheTimer :=
  fun _ _ hr => ⟨step_of_sleeping hr, fun h => ⟨fun hp => step_of_resetDelayOver hr hp h,
    fun hp => step_of_initDelayOver hr hp h, fun hp => step_of_conversionDelayOver hr hp h,
    fun hp => step_of_pollDelayOver hr hp h⟩, Config.delays_of_wf⟩

/-! ## Acquire() -/

theorem step_of_grant {gs : List Bool} (hr : s.rst = false) (hp : s.phase = .iAcq ∨ s.phase = .mAcq)
    (hg : s.grantIn = true :: gs) :
    step s = .next { s with
      busReq := true, grantIn := gs, phase := if s.phase = .iAcq then .iRstW else .mTrgW
      trace := s.trace ++ [.acq] } := by
  rw [step_of_acquiring hr hp, State.acquire_of_granted _ (s.grantNext_listed _ _ hg)]

theorem step_of_noGrant {gs : List Bool} (hr : s.rst = false) (hp : s.phase = .iAcq ∨ s.phase = .mAcq)
    (hg : s.grantIn = false :: gs) : step s = .next { s with busReq := true, grantIn := gs } := by
  rw [step_of_acquiring hr hp, State.acquire_of_waiting _ (s.grantNext_listed _ _ hg)]

/-- Settles O26, by induction on the number of samples without the grant. -/
theorem acquireWaitsForTheGrant : Obligations.AcquireWaitsForTheGrant := by
  intro s n gs hr hp hg
  induction n generalizing s with
  | zero => exact ⟨fun k hpos hle => absurd hpos (Nat.not_lt.2 hle), run_succ 0 s _ (step_of_grant hr hp hg)⟩
  | succ n ih =>
    have hstep := step_of_noGrant (gs := List.replicate n false ++ true :: gs) hr hp hg
    obtain ⟨hwait, hgrant⟩ := ih { s with busReq := true, grantIn := List.replicate n false ++ true :: gs } hr hp rfl
    refine ⟨fun k hpos hle => ?_, (run_succ _ s _ hstep).trans hgrant⟩
    obtain _ | k := k
    · cases hpos
    · rw [run_succ k s _ hstep, Nat.add_sub_add_right]
      obtain rfl | hk := Nat.eq_zero_or_pos k
      · rfl
      · exact hwait k hk (Nat.le_of_succ_le_succ hle)

/-! ## Waiting (R268) -/

/-- Without an answer of the transport an issued transaction changes the inputs only. -/
theorem exec_of_noAnswer {i : Instr} (hi : i.isTransaction = true) (hp : s.phase.issues i)
    (h : s.busNext = (none, u)) : exec i s = .next u := by
  cases i with
  | init | read | classify | encode | decode => cases hi
  | softReset | initCfg | trigger =>
    have hq := Phase.issues_eq (by nofun) hp
    exact congrArg _ ((State.inPhase_of_eq _ hq).trans (State.busWrite_of_none _ h))
  | frameRead =>
    have hq := Phase.issues_eq (by nofun) hp
    exact congrArg _ ((State.inPhase_of_eq _ hq).trans (State.busRead_of_none _ h))
  | statusRead =>
    obtain hq | ⟨-, hq⟩ := hp
    · rw [exec_statusRead_of_iStR hq, State.busRead_of_none _ h]
    · rw [exec_statusRead_of_mPollR hq, State.busRead_of_none _ h]

/-- A step of waiting touches BUS_REQ and the inputs only. -/
def WaitsOnly (s t : State) : Prop :=
  ∃ b g ts bus d, t = { s with busReq := b, grantIn := g, timerIn := ts, busIn := bus, draws := d }

section
variable (hr : s.rst = false) (hs : step s = .next t)
include hr hs

theorem step_waitsOnly_of_noGrant (hp : s.phase = .iAcq ∨ s.phase = .mAcq) (h : s.grantNext.1 = false) :
    WaitsOnly s t := by
  obtain ⟨g, d, hframe⟩ := s.grantNext_frame
  rw [step_of_acquiring hr hp, State.acquire_of_waiting (u := s.grantNext.2) _ (Prod.ext h rfl), hframe] at hs
  cases hs
  exact ⟨true, g, s.timerIn, s.busIn, d, rfl⟩

theorem step_waitsOnly_of_sleeping (hp : s.phase = .iRstD ∨ s.phase = .iCfgD ∨ s.phase = .mCnvD ∨ s.phase = .mPollD)
    (h : s.timerNext.1 = false) : WaitsOnly s t := by
  obtain ⟨ts, d, hframe⟩ := s.timerNext_frame
  rw [step_of_sleeping (u := s.timerNext.2) hr hp (Prod.ext h rfl), hframe] at hs
  cases hs
  exact ⟨s.busReq, s.grantIn, ts, s.busIn, d, rfl⟩

theorem step_waitsOnly_of_noAnswer {i : Instr} (hi : i.isTransaction = true) (hp : s.phase.issues i)
    (h : s.busNext.1 = none) : WaitsOnly s t := by
  obtain ⟨b, d, hframe⟩ := s.busNext_frame
  rw [step_of_issues hr (Phase.issues_ne_idle hi hp) hp,
    exec_of_noAnswer (u := s.busNext.2) hi hp (Prod.ext h rfl), hframe] at hs
  cases hs
  exact ⟨s.busReq, s.grantIn, s.timerIn, b, d, rfl⟩

end

/-- The six phases that issue a transaction (R62). -/
theorem exists_transaction_of_phase {p : Phase}
    (h : p = .iRstW ∨ p = .iCfgW ∨ p = .iStR ∨ p = .mTrgW ∨ p = .mPollR ∨ p = .mFrmR) :
    ∃ i : Instr, i.isTransaction = true ∧ p.issues i := by
  rcases h with rfl | rfl | rfl | rfl | rfl | rfl
  · exact ⟨.softReset, rfl, .inl rfl⟩
  · exact ⟨.initCfg, rfl, .inl rfl⟩
  · exact ⟨.statusRead, rfl, .inl rfl⟩
  · exact ⟨.trigger, rfl, .inl rfl⟩
  · exact ⟨.statusRead, rfl, .inr ⟨rfl, rfl⟩⟩
  · exact ⟨.frameRead, rfl, .inl rfl⟩

/-- Settles O28: a wait for each of the three agents touches BUS_REQ and the inputs only. -/
theorem waitingPhasesDoNotFallThrough : Obligations.WaitingPhasesDoNotFallThrough := by
  intro s t hr hs hwait
  have honly : WaitsOnly s t := by
    obtain ⟨hp, h⟩ | ⟨hp, h⟩ | ⟨hp, h⟩ := hwait
    · exact step_waitsOnly_of_noGrant hr hs hp h
    · exact step_waitsOnly_of_sleeping hr hs hp h
    · obtain ⟨i, hi, hissue⟩ := exists_transaction_of_phase hp
      exact step_waitsOnly_of_noAnswer hr hs hi hissue h
  obtain ⟨b, g, ts, bus, d, rfl⟩ := honly
  exact ⟨rfl, rfl, rfl, rfl, rfl, rfl, rfl⟩

end Sys2Proof.Machine
end

section
/-! PROOFS. INIT and READ as whole runs, by their big-step tables (O14, O18): a lemma per step with its input listed,
then the runs up to the step that decides. -/

namespace Sys2Proof.Machine

variable {s t u : State}

theorem run_append_step {n : Nat} (h : run n s = .next t) (hs : step t = .next u) : run (n + 1) s = .next u :=
  (run_add n 1 s t h).trans (run_succ 0 t u hs)

/-! ## Single steps with their input listed -/

section
variable {rest : List HostWord} {bus : List (Option BusAnswer)} {ts : List Bool} {o : Nat} {d : List Byte} {b : Byte}
  (hr : s.rst = false)
include hr

theorem step_of_init (hp : s.phase = .idle) (hd : s.dstate = .uninitialized ∨ s.dstate = .ready ∨ s.dstate = .faulted)
    (hh : s.hostIn = ⟨0x01#8, o⟩ :: rest) :
    step s = .next { s with
      hostIn := rest, err := .none, rdValid := false, dstate := .resetting, phase := .iAcq } :=
  (step_of_presented hr hp hh rfl).trans (initIsAccepted { s with hostIn := rest } hp hd)

theorem step_of_read (hp : s.phase = .idle) (hd : s.dstate = .ready) (hh : s.hostIn = ⟨0x02#8, o⟩ :: rest) :
    step s = .next { s with
      hostIn := rest, err := .none, rdValid := false, pollCnt := 0, dstate := .measuring, phase := .mAcq } :=
  (step_of_presented hr hp hh rfl).trans (readIsAccepted { s with hostIn := rest } hp hd)

section
variable {i : Instr} {p q : Phase} {bytes : List Byte} (hp : s.phase = p) (hi : i.isTransaction = true)
  (hissue : p.issues i)
  (hexec : ∀ s, exec i s = .next (s.inPhase p (State.busWrite bytes fun t => { t with phase := q })))
include hp hi hissue hexec

theorem step_of_command_ok (hb : s.busIn = some (.ok d) :: bus) :
    step s = .next { s with busIn := bus, phase := q, trace := s.trace ++ [.write devAddr bytes true] } :=
  have hs : s.phase.issues i := hp ▸ hissue
  (step_of_issues hr (Phase.issues_ne_idle hi hs) hs).trans (exec_command_of_ok hexec hp (s.busNext_listed _ _ hb))

theorem step_of_command_fail (hb : s.busIn = some .fail :: bus) :
    step s = .next { s with
      busIn := bus, err := .transport, dstate := .faulted, busReq := false, phase := .idle
      trace := s.trace ++ [.write devAddr bytes false, .rel], resp := s.resp ++ [⟨.transport, .nothing⟩] } :=
  have hs : s.phase.issues i := hp ▸ hissue
  (step_of_issues hr (Phase.issues_ne_idle hi hs) hs).trans (exec_command_of_fail hexec hp (s.busNext_listed _ _ hb))

end

theorem step_of_softResetOk (hp : s.phase = .iRstW) (hb : s.busIn = some (.ok d) :: bus) :
    step s = .next { s with busIn := bus, phase := .iRstD, trace := s.trace ++ [.write devAddr softResetBytes true] } :=
  step_of_command_ok hr hp rfl (.inl rfl) (i := .softReset) (fun _ => rfl) hb

theorem step_of_softResetFail (hp : s.phase = .iRstW) (hb : s.busIn = some .fail :: bus) :
    step s = .next { s with
      busIn := bus, err := .transport, dstate := .faulted, busReq := false, phase := .idle
      trace := s.trace ++ [.write devAddr softResetBytes false, .rel], resp := s.resp ++ [⟨.transport, .nothing⟩] } :=
  step_of_command_fail hr hp rfl (.inl rfl) (i := .softReset) (fun _ => rfl) hb

theorem step_of_initCfgOk (hp : s.phase = .iCfgW) (hb : s.busIn = some (.ok d) :: bus) :
    step s = .next { s with busIn := bus, phase := .iCfgD, trace := s.trace ++ [.write devAddr initCfgBytes true] } :=
  step_of_command_ok hr hp rfl (.inl rfl) (i := .initCfg) (fun _ => rfl) hb

theorem step_of_initCfgFail (hp : s.phase = .iCfgW) (hb : s.busIn = some .fail :: bus) :
    step s = .next { s with
      busIn := bus, err := .transport, dstate := .faulted, busReq := false, phase := .idle
      trace := s.trace ++ [.write devAddr initCfgBytes false, .rel], resp := s.resp ++ [⟨.transport, .nothing⟩] } :=
  step_of_command_fail hr hp rfl (.inl rfl) (i := .initCfg) (fun _ => rfl) hb

theorem step_of_triggerOk (hp : s.phase = .mTrgW) (hb : s.busIn = some (.ok d) :: bus) :
    step s = .next { s with busIn := bus, phase := .mCnvD, trace := s.trace ++ [.write devAddr triggerBytes true] } :=
  step_of_command_ok hr hp rfl (.inl rfl) (i := .trigger) (fun _ => rfl) hb

theorem step_of_triggerFail (hp : s.phase = .mTrgW) (hb : s.busIn = some .fail :: bus) :
    step s = .next { s with
      busIn := bus, err := .transport, dstate := .faulted, busReq := false, phase := .idle
      trace := s.trace ++ [.write devAddr triggerBytes false, .rel], resp := s.resp ++ [⟨.transport, .nothing⟩] } :=
  step_of_command_fail hr hp rfl (.inl rfl) (i := .trigger) (fun _ => rfl) hb

/-- INIT's status read of one byte (R131). -/
theorem step_of_statusToCheck (hp : s.phase = .iStR) (hb : s.busIn = some (.ok [b]) :: bus) :
    step s = .next { s with
      busIn := bus, status := b, phase := .iChk, trace := s.trace ++ [.read devAddr statusLen (.ok [b])] } :=
  (step_of_statusRead hr (.inl hp)).trans (exec_statusRead_toCheck hp (s.busNext_listed _ _ hb))

/-- A status read that fails, in INIT and in READ (R153). -/
theorem step_of_statusFail (hp : s.phase = .iStR ∨ s.phase = .mPollR) (hb : s.busIn = some .fail :: bus) :
    step s = .next { s with
      busIn := bus, err := .transport, dstate := .faulted, busReq := false, phase := .idle
      trace := s.trace ++ [.read devAddr statusLen .fail, .rel], resp := s.resp ++ [⟨.transport, .nothing⟩] } :=
  (step_of_statusRead hr hp).trans
    (exec_statusRead_of_failure hp (s.busNext_listed _ _ hb) nofun)

end

/-! ## INIT (R156) -/

section
variable {o : Nat} {rest : List HostWord} {gs ts : List Bool} {bus : List (Option BusAnswer)} {d1 d2 : List Byte}
  {b : Byte} (hr : s.rst = false) (hp : s.phase = .idle)
  (hd : s.dstate = .uninitialized ∨ s.dstate = .ready ∨ s.dstate = .faulted)
  (hh : s.hostIn = ⟨0x01#8, o⟩ :: rest) (hg : s.grantIn = true :: gs)
include hr hp hd hh hg

theorem run_init_granted :
    run 2 s = .next { s with
      dstate := .resetting, err := .none, rdValid := false, busReq := true, phase := .iRstW
      hostIn := rest, grantIn := gs, trace := s.trace ++ [.acq] } :=
  run_append_step (run_succ 0 s _ (step_of_init hr hp hd hh)) (step_of_grant hr (.inl rfl) hg)

theorem run_init_reset (hb : s.busIn = some (.ok d1) :: bus) (ht : s.timerIn = true :: ts) :
    run 4 s = .next { s with
      dstate := .awaitingCalibration, err := .none, rdValid := false, busReq := true, phase := .iCfgW
      hostIn := rest, grantIn := gs, timerIn := ts, busIn := bus
      trace := s.trace ++ [.acq, .write devAddr softResetBytes true, .delay s.cfg.tReset] } := by
  have hsent := run_append_step (run_init_granted hr hp hd hh hg)
    (step_of_softResetOk hr rfl hb)
  refine (run_append_step hsent (step_of_resetDelayOver hr rfl (State.timerNext_listed _ _ _ ht))).trans ?_
  simp

theorem run_init_configured (hb : s.busIn = some (.ok d1) :: some (.ok d2) :: bus)
    (ht : s.timerIn = true :: true :: ts) :
    run 6 s = .next { s with
      dstate := .awaitingCalibration, err := .none, rdValid := false, busReq := true, phase := .iStR
      hostIn := rest, grantIn := gs, timerIn := ts, busIn := bus
      trace := s.trace ++ [.acq, .write devAddr softResetBytes true, .delay s.cfg.tReset,
        .write devAddr initCfgBytes true, .delay s.cfg.tInit] } := by
  have hsent := run_append_step (run_init_reset hr hp hd hh hg hb ht)
    (step_of_initCfgOk hr rfl rfl)
  refine (run_append_step hsent (step_of_initDelayOver hr rfl (State.timerNext_listed _ _ _ rfl))).trans ?_
  simp

end

/-- Settles O14: each row is one of the three runs, and the step that its answer decides. -/
theorem initRunsByItsTable : Obligations.InitRunsByItsTable := by
  intro s o rest gs ts bus d1 d2 b hr hp hd hh hg ht
  refine ⟨fun hb => ?_, fun hb => ?_, fun hb => ?_, fun hb => ?_⟩
  · have hlast := run_append_step (run_init_granted hr hp hd hh hg)
      (step_of_softResetFail hr rfl hb)
    simpa [hp, devAddr, softResetBytes] using hlast
  · have hlast := run_append_step (run_init_reset hr hp hd hh hg hb ht)
      (step_of_initCfgFail hr rfl rfl)
    simpa [hp, devAddr, softResetBytes, initCfgBytes] using hlast
  · have hlast := run_append_step (run_init_configured hr hp hd hh hg hb ht) (step_of_statusFail hr (.inl rfl) rfl)
    simpa [hp, devAddr, softResetBytes, initCfgBytes, statusLen] using hlast
  · have hread := run_append_step (run_init_configured hr hp hd hh hg hb ht) (step_of_statusToCheck hr rfl rfl)
    obtain ⟨hcheck, -⟩ := calibrationBitAloneDecidesInit
    have hlast := run_append_step hread (hcheck _ hr rfl)
    simpa [hp, devAddr, softResetBytes, initCfgBytes, statusLen] using hlast

/-! ## The busy-poll loop -/

section
variable {ts : List Bool} {bus : List (Option BusAnswer)} {b : Byte} (hr : s.rst = false) (hp : s.phase = .mPollR)
include hr hp

/-- A status byte in the poll loop: the flag decides first, the counter second (R145). -/
theorem step_of_poll (hb : s.busIn = some (.ok [b]) :: bus) :
    step s = .next
      (if b.getLsbD 7 = false then
        { s with busIn := bus, status := b, phase := .mFrmR, trace := s.trace ++ [.read 0x38#8 1 (.ok [b])] }
      else if s.pollCnt = s.cfg.pollMax then
        { s with
          busIn := bus, status := b, err := .timeout, dstate := .ready, busReq := false, phase := .idle
          trace := s.trace ++ [.read 0x38#8 1 (.ok [b]), .rel], resp := s.resp ++ [⟨.timeout, .nothing⟩] }
      else
        { s with busIn := bus, status := b, phase := .mPollD, trace := s.trace ++ [.read 0x38#8 1 (.ok [b])] }) :=
  (step_of_statusRead hr (.inr hp)).trans
    ((pollLooksAtTransportThenFlagThenCounter s _ hp).2 b (s.busNext_listed _ _ hb))

theorem step_of_pollClear (hclear : b.getLsbD 7 = false) (hb : s.busIn = some (.ok [b]) :: bus) :
    step s = .next { s with
      busIn := bus, status := b, phase := .mFrmR, trace := s.trace ++ [.read 0x38#8 1 (.ok [b])] } := by
  rw [step_of_poll hr hp hb, if_pos hclear]

theorem step_of_pollTimeout (hbusy : b.getLsbD 7 = true) (hc : s.pollCnt = s.cfg.pollMax)
    (hb : s.busIn = some (.ok [b]) :: bus) :
    step s = .next { s with
      busIn := bus, status := b, err := .timeout, dstate := .ready, busReq := false, phase := .idle
      trace := s.trace ++ [.read 0x38#8 1 (.ok [b]), .rel], resp := s.resp ++ [⟨.timeout, .nothing⟩] } := by
  rw [step_of_poll hr hp hb, if_neg (by simp [hbusy]), if_pos hc]

theorem step_of_pollAgain (hbusy : b.getLsbD 7 = true) (hc : s.pollCnt < s.cfg.pollMax)
    (hb : s.busIn = some (.ok [b]) :: bus) :
    step s = .next { s with
      busIn := bus, status := b, phase := .mPollD, trace := s.trace ++ [.read 0x38#8 1 (.ok [b])] } := by
  rw [step_of_poll hr hp hb, if_neg (by simp [hbusy]), if_neg hc.ne]

/-- A busy answer with a retry sleep left, and the sleep (R142). -/
theorem run_busyPoll (hbusy : b.getLsbD 7 = true) (hc : s.pollCnt < s.cfg.pollMax)
    (hb : s.busIn = some (.ok [b]) :: bus) (ht : s.timerIn = true :: ts) :
    run 2 s = .next { s with
      status := b, pollCnt := s.pollCnt + 1, timerIn := ts, busIn := bus
      trace := s.trace ++ [.read 0x38#8 1 (.ok [b]), .delay s.cfg.tPoll] } := by
  refine (run_append_step (run_succ 0 s _ (step_of_pollAgain hr hp hbusy hc hb))
    (step_of_pollDelayOver hr rfl (State.timerNext_listed _ _ _ ht))).trans ?_
  simp [hp]

end

theorem run_busyPolls {busy : List Byte} {ts : List Bool} {bus : List (Option BusAnswer)} (hr : s.rst = false)
    (hp : s.phase = .mPollR) (hbusy : ∀ x ∈ busy, x.getLsbD 7 = true) (hc : s.pollCnt + busy.length ≤ s.cfg.pollMax)
    (hb : s.busIn = statusAnswers busy ++ bus) (ht : s.timerIn = List.replicate busy.length true ++ ts) :
    run (2 * busy.length) s = .next { s with
      status := busy.getLast?.getD s.status, pollCnt := s.pollCnt + busy.length, timerIn := ts, busIn := bus
      trace := s.trace ++ busyEvents s.cfg.tPoll busy } := by
  induction busy generalizing s with
  | nil =>
    obtain rfl : s.busIn = bus := hb
    obtain rfl : s.timerIn = ts := ht
    simp [busyEvents]
  | cons b busy ih =>
    obtain ⟨hbusy1, hbusy⟩ := List.forall_mem_cons.1 hbusy
    rw [List.length_cons] at hc
    have hfirst := run_busyPoll (bus := statusAnswers busy ++ bus) (ts := List.replicate busy.length true ++ ts)
      hr hp hbusy1 (by omega) hb ht
    have hrest := ih (s := { s with
      status := b, pollCnt := s.pollCnt + 1, timerIn := List.replicate busy.length true ++ ts
      busIn := statusAnswers busy ++ bus
      trace := s.trace ++ [.read 0x38#8 1 (.ok [b]), .delay s.cfg.tPoll] }) hr hp hbusy (by simp; omega) rfl rfl
    rw [List.length_cons, Nat.mul_succ, Nat.add_comm, run_add _ _ s _ hfirst, hrest]
    simp [busyEvents, List.getLast?_cons, devAddr, Nat.add_assoc, Nat.add_comm 1]

/-! ## The frame read and the end of READ -/

section
variable {bus : List (Option BusAnswer)} {bytes : List Byte} (hr : s.rst = false)
include hr

theorem step_of_frameOk (hp : s.phase = .mFrmR) (hl : bytes.length = frameLen)
    (hb : s.busIn = some (.ok bytes) :: bus) :
    step s = .next { s with
      busIn := bus, frame := frameOfBytes bytes, phase := .mDec
      trace := s.trace ++ [.read devAddr frameLen (.ok bytes)] } :=
  (step_of_issues (i := .frameRead) hr (by simp [hp]) (.inl hp)).trans
    (exec_frameRead_of_answer hp (s.busNext_listed _ _ hb) hl)

theorem step_of_frameFail (hp : s.phase = .mFrmR) (hb : s.busIn = some .fail :: bus) :
    step s = .next { s with
      busIn := bus, err := .transport, dstate := .faulted, busReq := false, phase := .idle
      trace := s.trace ++ [.read devAddr frameLen .fail, .rel], resp := s.resp ++ [⟨.transport, .nothing⟩] } :=
  (step_of_issues (i := .frameRead) hr (by simp [hp]) (.inl hp)).trans
    (exec_frameRead_of_failure hp (s.busNext_listed _ _ hb) nofun)

theorem step_of_mDec (hp : s.phase = .mDec) : step s = .next s.decodeFrame.endRead :=
  (step_of_issues (i := .decode) hr (by simp [hp]) (.inl hp)).trans (exec_decode_of_mDec hp)

end

/-! ## READ (R157) -/

section
variable {o : Nat} {rest : List HostWord} {gs ts : List Bool} {bus : List (Option BusAnswer)} {d : List Byte}
  {busy : List Byte} (hr : s.rst = false) (hp : s.phase = .idle) (hd : s.dstate = .ready)
  (hh : s.hostIn = ⟨0x02#8, o⟩ :: rest) (hg : s.grantIn = true :: gs)
include hr hp hd hh hg

theorem run_read_granted :
    run 2 s = .next { s with
      dstate := .measuring, err := .none, rdValid := false, pollCnt := 0, busReq := true, phase := .mTrgW
      hostIn := rest, grantIn := gs, trace := s.trace ++ [.acq] } :=
  run_append_step (run_succ 0 s _ (step_of_read hr hp hd hh)) (step_of_grant hr (.inr rfl) hg)

/-- READ up to the status read that decides: the busy answers `busy` have come and each has had its retry sleep. -/
theorem run_read_polled (hb : s.busIn = some (.ok d) :: (statusAnswers busy ++ bus))
    (ht : s.timerIn = List.replicate (busy.length + 1) true ++ ts) (hbusy : ∀ x ∈ busy, x.getLsbD 7 = true)
    (hc : busy.length ≤ s.cfg.pollMax) :
    run (2 * busy.length + 4) s = .next { s with
      dstate := .measuring, err := .none, status := busy.getLast?.getD s.status, rdValid := false
      pollCnt := busy.length, busReq := true, phase := .mPollR
      hostIn := rest, grantIn := gs, timerIn := ts, busIn := bus
      trace := s.trace ++ ([.acq, .write 0x38#8 [0xAC#8, 0x33#8, 0x00#8] true, .delay s.cfg.tConv] ++
        busyEvents s.cfg.tPoll busy) } := by
  have hsent := run_append_step (run_read_granted hr hp hd hh hg) (step_of_triggerOk hr rfl hb)
  have hconv := run_append_step hsent (step_of_conversionDelayOver hr rfl (State.timerNext_listed _ _ _ ht))
  rw [Nat.add_comm, run_add 4 _ s _ hconv]
  refine (run_busyPolls (busy := busy) (by exact hr) rfl hbusy (by simpa using hc) rfl rfl).trans ?_
  simp [devAddr, triggerBytes]

end

/-- Settles O18: READ up to the answer that decides, then the one, two or three steps that it decides. -/
theorem readRunsByItsTable : Obligations.ReadRunsByItsTable := by
  intro s o rest gs ts bus d busy b f0 f1 f2 f3 f4 f5 hr hp hd hh hg ht hbusy hc
  have hpolled {bus'} (hb : s.busIn = some (.ok d) :: (statusAnswers busy ++ bus')) :=
    run_read_polled hr hp hd hh hg hb ht hbusy hc
  refine ⟨fun hb => ?_, fun hb hmax hb7 => ?_, fun hb => ?_, fun hb hb7 => ?_, fun hb hb7 => ?_⟩
  · have hlast := run_append_step (run_read_granted hr hp hd hh hg) (step_of_triggerFail hr rfl hb)
    simpa [hp, devAddr, triggerBytes] using hlast
  · have hlast := run_append_step (hpolled hb) (step_of_pollTimeout hr rfl hb7 hmax rfl)
    simpa [hp] using hlast
  · have hlast := run_append_step (hpolled hb) (step_of_statusFail hr (.inr rfl) rfl)
    simpa [hp, devAddr, statusLen] using hlast
  · have hclear := run_append_step (hpolled hb) (step_of_pollClear hr rfl hb7 rfl)
    have hlast := run_append_step hclear (step_of_frameFail hr rfl rfl)
    simpa [hp, devAddr, frameLen] using hlast
  · have hclear := run_append_step (hpolled hb) (step_of_pollClear hr rfl hb7 rfl)
    have hframe := run_append_step hclear (step_of_frameOk hr rfl rfl rfl)
    have hlast := run_append_step hframe (step_of_mDec hr rfl)
    simpa [hp, devAddr, frameLen, frameOfBytes, State.endRead_eq, State.decodeFrame] using hlast

end Sys2Proof.Machine
end

section
/-! PROOFS. Ends: the busy-poll loop ends whatever the bus answers (O29), and under the three premises a running
operation ends (O30). -/

namespace Sys2Proof.Machine

variable {s t u : State}

/-! ## The busy-poll loop (R143) -/

/-- An answered status read of the poll loop leaves it, or finds BUSY set with a retry sleep left. -/
theorem step_of_pollAnswer {a : BusAnswer} {bus : List (Option BusAnswer)} (hr : s.rst = false) (hp : s.phase = .mPollR)
    (hb : s.busIn = some a :: bus) :
    (∃ t, step s = .next t ∧ t.phase ≠ .mPollR ∧ t.phase ≠ .mPollD) ∨
    ∃ b, s.pollCnt ≠ s.cfg.pollMax ∧ a = .ok [b] ∧ b.getLsbD 7 = true := by
  by_cases ha : ∃ b, a = .ok [b]
  · obtain ⟨b, rfl⟩ := ha
    rcases Bool.eq_false_or_eq_true (b.getLsbD 7) with hbusy | hclear
    · by_cases hc : s.pollCnt = s.cfg.pollMax
      · exact .inl ⟨_, step_of_pollTimeout hr hp hbusy hc hb, nofun, nofun⟩
      · exact .inr ⟨b, hc, rfl, hbusy⟩
    · exact .inl ⟨_, step_of_pollClear hr hp hclear hb, nofun, nofun⟩
  · left
    refine ⟨_, (step_of_statusRead hr (.inr hp)).trans
      (exec_statusRead_of_failure (.inr hp) (s.busNext_listed _ _ hb) fun b h => ha ⟨b, h⟩), nofun, nofun⟩

/-- The loop, by induction on the retry sleeps that are left. -/
theorem pollLoop_ends {k : Nat} {answers : List BusAnswer} {bus : List (Option BusAnswer)} {ts : List Bool}
    (hr : s.rst = false) (hp : s.phase = .mPollR) (hk : s.pollCnt + k = s.cfg.pollMax)
    (hb : s.busIn = answers.map some ++ bus) (hlen : k < answers.length)
    (ht : s.timerIn = List.replicate k true ++ ts) :
    ∃ n t, n ≤ 2 * k + 1 ∧ run n s = .next t ∧ t.phase ≠ .mPollR ∧ t.phase ≠ .mPollD := by
  induction k generalizing s answers with
  | zero =>
    obtain _ | ⟨a, answers⟩ := answers
    · cases hlen
    · obtain ⟨t, hs, hout⟩ | ⟨b, hc, -⟩ := step_of_pollAnswer hr hp hb
      · exact ⟨1, t, by omega, run_succ 0 s t hs, hout⟩
      · exact absurd hk hc
  | succ k ih =>
    obtain _ | ⟨a, answers⟩ := answers
    · cases hlen
    · obtain ⟨t, hs, hout⟩ | ⟨b, hc, rfl, hbusy⟩ := step_of_pollAnswer hr hp hb
      · exact ⟨1, t, by omega, run_succ 0 s t hs, hout⟩
      · have hpoll := run_busyPoll (bus := answers.map some ++ bus) (ts := List.replicate k true ++ ts) hr hp hbusy
          (by omega) hb ht
        obtain ⟨n, t, hn, hrun, hout⟩ := ih (s := { s with
          status := b, pollCnt := s.pollCnt + 1, timerIn := List.replicate k true ++ ts
          busIn := answers.map some ++ bus
          trace := s.trace ++ [.read 0x38#8 1 (.ok [b]), .delay s.cfg.tPoll] }) hr hp (by simp; omega) rfl
          (Nat.lt_of_succ_lt_succ hlen) rfl
        exact ⟨2 + n, t, by omega, by rw [run_add 2 n s _ hpoll, hrun], hout⟩

/-- Settles O29: the invariant bounds POLL_CNT, so POLL_MAX - POLL_CNT sleeps are left. -/
theorem pollLoopEnds : Obligations.PollLoopEnds := by
  intro s answers bus ts hinv hr hp hb hlen ht
  exact pollLoop_ends hr hp (Nat.add_sub_cancel' hinv.pollBound) hb hlen ht

/-! ## How a running operation goes on -/

/-- A bound on the steps that a running operation still takes, waits aside: its phases to come, and two for each retry
sleep that is left. -/
def State.remaining (s : State) : Nat :=
  match s.phase with
  | .idle => 0
  | .iAcq => 7
  | .iRstW => 6
  | .iRstD => 5
  | .iCfgW => 4
  | .iCfgD => 3
  | .iStR => 2
  | .iChk => 1
  | .mAcq => 2 * (s.cfg.pollMax - s.pollCnt) + 6
  | .mTrgW => 2 * (s.cfg.pollMax - s.pollCnt) + 5
  | .mCnvD => 2 * (s.cfg.pollMax - s.pollCnt) + 4
  | .mPollR => 2 * (s.cfg.pollMax - s.pollCnt) + 3
  | .mPollD => 2 * (s.cfg.pollMax - s.pollCnt) + 2
  | .mFrmR => 2
  | .mDec => 1

/-- From `s` to `t` the running operation has ended with its response, or has come nearer to its end without one. -/
def Progresses (s t : State) : Prop :=
  t.rst = false ∧
    (t.phase = .idle ∧ t.resp.length = s.resp.length + 1 ∨
      t.phase ≠ .idle ∧ t.resp.length = s.resp.length ∧ t.remaining < s.remaining)

theorem Progresses.of_raise {e : ErrKind} (hr : s.rst = false) : Progresses s (s.raise e) :=
  ⟨hr, .inl ⟨rfl, by simp⟩⟩

theorem Progresses.of_finish {p : Payload} (hr : s.rst = false) : Progresses s (s.finish p) :=
  ⟨hr, .inl ⟨rfl, by simp⟩⟩

theorem Progresses.of_endRead (hr : s.rst = false) : Progresses s s.decodeFrame.endRead :=
  ⟨hr, .inl ⟨rfl, by simp [State.endRead]⟩⟩

theorem WaitsOnly.refl (s : State) : WaitsOnly s s := ⟨_, _, _, _, _, rfl⟩

theorem WaitsOnly.trans (h : WaitsOnly s t) (hu : WaitsOnly t u) : WaitsOnly s u := by
  obtain ⟨_, _, _, _, _, rfl⟩ := h
  obtain ⟨b, g, ts, bus, d, rfl⟩ := hu
  exact ⟨b, g, ts, bus, d, rfl⟩

/-- Progress after a wait is progress. -/
theorem WaitsOnly.progresses (h : WaitsOnly s t) (hu : Progresses t u) : Progresses s u := by
  obtain ⟨_, _, _, _, _, rfl⟩ := h
  exact hu

/-- The operation that a running phase issues waits or makes progress. -/
theorem Effect.waits_or_progresses {i : Instr} (h : Effect s i t) (hr : s.rst = false) (hp : s.phase ≠ .idle)
    (hi : s.phase.issues i) : WaitsOnly s t ∨ Progresses s t := by
  cases h with
  | unissued _ hn => exact absurd hi hn
  | initAccepted h | initIgnored h | readAccepted h | readRefused h | classified h | encoded _ _ h
  | noReading _ _ h => exact absurd h hp
  | waits _ b d => exact .inl ⟨_, _, _, b, d, rfl⟩
  | failed | pollTimeout => exact .inr ⟨hr, .inl ⟨rfl, by simp⟩⟩
  | decoded => exact .inr (.of_endRead hr)
  | softResetSent _ _ h | initCfgSent _ _ h | triggerSent _ _ h | statusToCheck _ _ _ h | pollClear _ _ _ h
  | pollAgain _ _ _ h | frameStored _ _ _ h =>
    exact .inr ⟨hr, .inr ⟨nofun, rfl, by simp [State.remaining, h]⟩⟩

/-- A step of a running operation waits or makes progress. -/
theorem Move.waits_or_progresses (h : Move s t) (hinv : Inv s) (hr : s.rst = false) (hp : s.phase ≠ .idle) :
    WaitsOnly s t ∨ Progresses s t := by
  cases h with
  | reset h => simp [hr] at h
  | quiet _ h | turnedAway _ _ _ _ h | hostOp _ _ _ _ _ h => exact absurd h hp
  | phaseOp i _ _ _ hi he => exact he.waits_or_progresses hr hp hi
  | asksForBus g d => exact .inl ⟨true, g, _, _, d, rfl⟩
  | sleeps ts d => exact .inl ⟨_, _, ts, _, d, rfl⟩
  | initGranted _ _ _ h | readGranted _ _ _ h | resetDelayOver _ _ _ h | initDelayOver _ _ _ h
  | conversionDelayOver _ _ _ h =>
    exact .inr ⟨hr, .inr ⟨nofun, rfl, by simp [State.remaining, h]⟩⟩
  | pollDelayOver _ _ _ h =>
    have hroom := (hinv.pollRoom h).1
    exact .inr ⟨hr, .inr ⟨nofun, rfl, by simp only [State.remaining, h]; omega⟩⟩
  | calibrated => exact .inr (.of_finish hr)
  | uncalibrated => exact .inr (.of_raise hr)

/-! ## Runs -/

theorem Inv.run {n : Nat} (h : Inv s) (hs : Machine.run n s = .next t) : Inv t := by
  induction n generalizing s with
  | zero =>
    cases hs
    exact h
  | succ n ih =>
    obtain ⟨u, hu⟩ := stepNeverStops s h
    rw [run_succ n s u hu] at hs
    exact ih (stepKeepsTheInvariant s u h hu) hs

/-- A premise over the run from `s` holds over the run from any state of it. -/
theorem waitsEnd_of_run {phases : List Phase} {n : Nat} (h : waitsEnd phases s) (hs : run n s = .next t) :
    waitsEnd phases t := by
  intro k v hk
  exact h (n + k) v (by rw [run_add n k s t hs, hk])

/-- A run of a running operation has waited only, or has made progress on the way. -/
theorem run_waits_or_progresses {m : Nat} (hinv : Inv s) (hr : s.rst = false) (hp : s.phase ≠ .idle)
    (hs : run m s = .next u) : WaitsOnly s u ∨ ∃ n t, run n s = .next t ∧ Progresses s t := by
  induction m generalizing s with
  | zero =>
    cases hs
    exact .inl (.refl _)
  | succ m ih =>
    obtain ⟨v, hv⟩ := stepNeverStops s hinv
    rw [run_succ m s v hv] at hs
    obtain hwait | hprog := (Move.of_step hv).waits_or_progresses hinv hr hp
    · have hinv' := stepKeepsTheInvariant s v hinv hv
      obtain ⟨_, _, _, _, _, hveq⟩ := id hwait
      obtain hrest | ⟨n, t, hn, hprog⟩ := ih hinv' (by rw [hveq]; exact hr) (by rw [hveq]; exact hp) hs
      · exact .inl (hwait.trans hrest)
      · exact .inr ⟨n + 1, t, by rw [run_succ n s v hv, hn], hwait.progresses hprog⟩
    · exact .inr ⟨1, v, run_succ 0 s v hv, hprog⟩

/-- Where a phase waits for an agent, the premise's event is none that a wait adds. -/
theorem exists_progress_of_waitsEnd {phases : List Phase} (hinv : Inv s) (hr : s.rst = false) (hp : s.phase ≠ .idle)
    (hends : waitsEnd phases s) (hmem : s.phase ∈ phases) : ∃ n t, run n s = .next t ∧ Progresses s t := by
  obtain ⟨m, u, hu, hnew⟩ := hends 0 s rfl hr hmem
  refine (run_waits_or_progresses hinv hr hp hu).resolve_left ?_
  rintro ⟨_, _, _, _, _, rfl⟩
  simp [newEvents] at hnew

/-- Every running operation makes progress: I_CHK and M_DEC at once, the other phases by one of the premises. -/
theorem exists_progress (hinv : Inv s) (hr : s.rst = false) (hp : s.phase ≠ .idle) (hgrant : pGrant s)
    (hdelay : pDelay s) (hanswers : pAnswers s) : ∃ n t, run n s = .next t ∧ Progresses s t := by
  cases hq : s.phase with
  | idle => exact absurd hq hp
  | iAcq | mAcq => exact exists_progress_of_waitsEnd hinv hr hp hgrant (by simp [hq])
  | iRstD | iCfgD | mCnvD | mPollD => exact exists_progress_of_waitsEnd hinv hr hp hdelay (by simp [hq])
  | iRstW | iCfgW | iStR | mTrgW | mPollR | mFrmR =>
    exact exists_progress_of_waitsEnd hinv hr hp hanswers (by simp [hq])
  | iChk =>
    refine ⟨1, _, run_succ 0 s _ (step_of_iChk hr hq), ?_⟩
    unfold stepCheck
    split_ifs
    · exact .of_raise hr
    · exact .of_finish hr
  | mDec => exact ⟨1, _, run_succ 0 s _ (step_of_mDec hr hq), .of_endRead hr⟩

/-- Settles O30, by induction on the steps that remain: the premises and the invariant hold after each progress. -/
theorem operationsEndUnderThePremises : Obligations.OperationsEndUnderThePremises := by
  intro s hinv hr hp hgrant hdelay hanswers
  induction hk : s.remaining using Nat.strong_induction_on generalizing s with
  | _ k ih =>
    obtain ⟨n, t, hn, hrt, ⟨hidle, hresp⟩ | ⟨hpt, hresp, hlt⟩⟩ := exists_progress hinv hr hp hgrant hdelay hanswers
    · exact ⟨n, t, hn, hidle, hresp⟩
    · obtain ⟨m, u, hm, hidle, hlen⟩ := ih t.remaining (hk ▸ hlt) t (hinv.run hn) hrt hpt (waitsEnd_of_run hgrant hn)
        (waitsEnd_of_run hdelay hn) (waitsEnd_of_run hanswers hn) rfl
      exact ⟨n + m, u, by rw [run_add n m s t hn, hm], hidle, by rw [hlen, hresp]⟩

end Sys2Proof.Machine
end

section
/-! PROOFS. The lines: their bytes are ASCII (O47), and the structured line has its three fields (O48). -/

namespace Sys2Proof.Machine

/-! ## Seven-bit bytes (R218) -/

theorem ascii_of_segmentAscii {bytes : List Byte} (h : segmentAscii bytes = true) : ∀ b ∈ bytes, b.toNat < 0x80 := by
  simpa [segmentAscii] using h

theorem ascii_of_isDigit {b : Byte} (h : isDigit b = true) : b.toNat < 0x80 := by
  simp only [isDigit, Bool.and_eq_true, decide_eq_true_eq] at h
  omega

theorem ascii_of_dec {v : B32} {n : Nat} {d : List Byte} (h : dec v n = some d) : ∀ b ∈ d, b.toNat < 0x80 := by
  intro b hb
  obtain hdigit | rfl | rfl := dec_bytes v n d h b hb
  · exact ascii_of_isDigit hdigit
  · decide
  · decide

theorem ascii_udec (n : Nat) : ∀ b ∈ udec n, b.toNat < 0x80 :=
  fun b hb => ascii_of_isDigit (List.all_eq_true.1 (udec_digits n) b hb)

theorem ascii_lineOf {pre mid1 mid2 post t h : List Byte} (ts : Nat) (hpre : segmentAscii pre = true)
    (hmid1 : segmentAscii mid1 = true) (hmid2 : segmentAscii mid2 = true) (hpost : segmentAscii post = true)
    (ht : ∀ b ∈ t, b.toNat < 0x80) (hh : ∀ b ∈ h, b.toNat < 0x80) :
    ∀ b ∈ lineOf pre mid1 mid2 post t h (udec ts), b.toNat < 0x80 :=
  lineOf_bytes _ _ _ _ _ _ ts (fun b => b.toNat < 0x80) (ascii_of_segmentAscii hpre) (ascii_of_segmentAscii hmid1)
    (ascii_of_segmentAscii hmid2) (ascii_of_segmentAscii hpost) ht hh (ascii_udec ts) (by decide)

/-- Settles O47: the segments, the numbers, CR and LF are ASCII. -/
theorem lineBytesAreAscii : Obligations.LineBytesAreAscii := by
  refine ⟨by decide, fun c t h ts sl hl hc htel => ?_⟩
  obtain ⟨t2, h2, tn, hn, ht2, hh2, htn, hhn, rfl, rfl⟩ := telemetry_eq_lines_iff.1 htel
  simp only [Config.asciiOk, Bool.and_eq_true] at hc
  obtain ⟨⟨⟨⟨⟨⟨⟨hsPre, hsMid1⟩, hsMid2⟩, hsPost⟩, hhPre⟩, hhMid1⟩, hhMid2⟩, hhPost⟩ := hc
  exact ⟨ascii_lineOf ts hsPre hsMid1 hsMid2 hsPost (ascii_of_dec ht2) (ascii_of_dec hh2),
    ascii_lineOf ts hhPre hhMid1 hhMid2 hhPost (ascii_of_dec htn) (ascii_of_dec hhn)⟩

/-! ## The fields of the structured line (R221) -/

/-- With two decimals a number is text, a point, and two digits (R219). -/
theorem exists_point_of_dec {v : B32} {d : List Byte} (h : dec v 2 = some d) :
    ∃ ip fp : List Byte, d = ip ++ 0x2E#8 :: fp ∧ fp.length = 2 ∧ fp.all isDigit = true := by
  have hfin : v.isFinite = true := by
    by_contra hnf
    rw [dec_of_nonFinite v 2 (Bool.eq_false_iff.2 hnf)] at h
    cases h
  obtain ⟨ip, fp, hd, -, hlen, hdigits, -⟩ := decimalsAreRoundedOnceToEven v 2 hfin
  rw [h, if_neg (two_ne_zero' ℕ), ← List.append_assoc] at hd
  exact ⟨_, fp, Option.some.inj hd, hlen, hdigits⟩

/-- Settles O48: a segment with its key, then the number, three times; and the only CR LF at the end. -/
theorem structuredLineKeepsItsFields : Obligations.StructuredLineKeepsItsFields := by
  refine ⟨by decide, fun c t h ts sl hl hkeys hok htel => ?_⟩
  obtain ⟨b1, -, hb1, -, hclean, -⟩ := linesEndInTheirOnlyCrLf.2 c t h ts sl hl hok htel
  obtain ⟨t2, h2, -, -, ht2, hh2, -, -, hsl, -⟩ := telemetry_eq_lines_iff.1 htel
  simp only [Config.keysOk, Bool.and_eq_true] at hkeys
  obtain ⟨⟨hkey1, hkey2⟩, hkey3⟩ := hkeys
  obtain ⟨p1, q1, h1⟩ := hasKey_split _ _ hkey1
  obtain ⟨p2, q2, h2'⟩ := hasKey_split _ _ hkey2
  obtain ⟨p3, q3, h3⟩ := hasKey_split _ _ hkey3
  obtain ⟨ti, tf, rfl, htf⟩ := exists_point_of_dec ht2
  obtain ⟨hi, hf, rfl, hhf⟩ := exists_point_of_dec hh2
  have htake : sl.take (sl.length - 2) = b1 := by simp [hb1]
  refine ⟨p1, q1, ti, tf, p2, q2, hi, hf, p3, q3, c.sPost, ?_, ht2, hh2, htf, hhf, by rwa [htake]⟩
  rw [hsl, lineOf, h1, h2', h3, crlf]
  simp only [List.append_assoc]

end Sys2Proof.Machine
end

section
/-! PROOFS. Which operation writes which register (O55), a frame lemma per register or group of registers. -/

namespace Sys2Proof.Machine

variable {s t : State} {i : Instr}

/-- CLASSIFY and ENCODE give a response and write no register (R201, R216). -/
theorem Effect.eq_of_answers (h : Effect s i t) (hi : i = .classify ∨ ∃ ts, i = .encode ts) :
    t = { s with resp := t.resp } := by
  obtain rfl | ⟨ts, rfl⟩ := hi
  · cases h with
    | unissued | classified | noReading => rfl
    | waits _ _ _ ht | failed _ _ _ _ ht => cases ht
  · cases h with
    | unissued | encoded | noReading => rfl
    | waits _ _ _ ht | failed _ _ _ _ ht => cases ht

/-- The error entry of a transaction (R255): TransportError, or the timeout of the poll loop. -/
def ErrorEntry (i : Instr) (t : State) : Prop :=
  i.isTransaction = true ∧
    (t.dstate = .faulted ∧ t.err = .transport ∨ i = .statusRead ∧ t.dstate = .ready ∧ t.err = .timeout)

/-- A register of the control group keeps its value, or the operation that R20 names has written it. -/
theorem Effect.dstate_eq_or (h : Effect s i t) :
    t.dstate = s.dstate ∨ i = .init ∧ t.dstate = .resetting ∨ i = .read ∧ t.dstate = .measuring ∨
      i = .decode ∧ t.dstate = .ready ∨ ErrorEntry i t := by
  cases h with
  | initAccepted => exact .inr (.inl ⟨rfl, rfl⟩)
  | readAccepted => exact .inr (.inr (.inl ⟨rfl, rfl⟩))
  | decoded => exact .inr (.inr (.inr (.inl ⟨rfl, rfl⟩)))
  | failed _ _ _ _ hi => exact .inr (.inr (.inr (.inr ⟨hi, .inl ⟨rfl, rfl⟩⟩)))
  | pollTimeout => exact .inr (.inr (.inr (.inr ⟨rfl, .inr ⟨rfl, rfl, rfl⟩⟩)))
  | _ => exact .inl rfl

theorem Effect.err_eq_or (h : Effect s i t) :
    t.err = s.err ∨ (i = .init ∨ i = .read) ∧ t.err = .none ∨ ErrorEntry i t := by
  cases h with
  | initAccepted => exact .inr (.inl ⟨.inl rfl, rfl⟩)
  | readAccepted => exact .inr (.inl ⟨.inr rfl, rfl⟩)
  | failed _ _ _ _ hi => exact .inr (.inr ⟨hi, .inl ⟨rfl, rfl⟩⟩)
  | pollTimeout => exact .inr (.inr ⟨rfl, .inr ⟨rfl, rfl, rfl⟩⟩)
  | _ => exact .inl rfl

theorem Effect.phase_eq_or (h : Effect s i t) :
    t.phase = s.phase ∨ i = .init ∨ i = .read ∨ i = .decode ∨ i.isTransaction = true := by
  cases h with
  | initAccepted => exact .inr (.inl rfl)
  | readAccepted => exact .inr (.inr (.inl rfl))
  | decoded => exact .inr (.inr (.inr (.inl rfl)))
  | failed _ _ _ _ hi => exact .inr (.inr (.inr (.inr hi)))
  | softResetSent | initCfgSent | triggerSent | statusToCheck | pollClear | pollTimeout | pollAgain | frameStored =>
    exact .inr (.inr (.inr (.inr rfl)))
  | _ => exact .inl rfl

/-- BUS_REQ is cleared at the end of an operation only (R72). -/
theorem Effect.busReq_eq_or (h : Effect s i t) :
    t.busReq = s.busReq ∨ (i = .decode ∨ i.isTransaction = true) ∧ t.busReq = false ∧ t.phase = .idle := by
  cases h with
  | decoded => exact .inr ⟨.inl rfl, rfl, rfl⟩
  | failed _ _ _ _ hi => exact .inr ⟨.inr hi, rfl, rfl⟩
  | pollTimeout => exact .inr ⟨.inr rfl, rfl, rfl⟩
  | _ => exact .inl rfl

theorem Effect.status_eq_or (h : Effect s i t) : t.status = s.status ∨ i = .statusRead := by
  cases h with
  | statusToCheck | pollClear | pollTimeout | pollAgain => exact .inr rfl
  | _ => exact .inl rfl

theorem Effect.frame_eq_or (h : Effect s i t) : t.frame = s.frame ∨ i = .frameRead ∨ i = .decode := by
  cases h with
  | frameStored => exact .inr (.inl rfl)
  | decoded => exact .inr (.inr rfl)
  | _ => exact .inl rfl

theorem Effect.rdValid_eq_or (h : Effect s i t) : t.rdValid = s.rdValid ∨ i = .init ∨ i = .read ∨ i = .decode := by
  cases h with
  | initAccepted => exact .inr (.inl rfl)
  | readAccepted => exact .inr (.inr (.inl rfl))
  | decoded => exact .inr (.inr (.inr rfl))
  | _ => exact .inl rfl

theorem Effect.pollCnt_eq_or (h : Effect s i t) : t.pollCnt = s.pollCnt ∨ i = .read := by
  cases h with
  | readAccepted => exact .inr rfl
  | _ => exact .inl rfl

theorem Effect.busIn_eq_or (h : Effect s i t) : t.busIn = s.busIn ∨ i.isTransaction = true := by
  cases h with
  | waits _ _ _ hi | failed _ _ _ _ hi => exact .inr hi
  | softResetSent | initCfgSent | triggerSent | statusToCheck | pollClear | pollTimeout | pollAgain | frameStored =>
    exact .inr rfl
  | _ => exact .inl rfl

/-- INIT and READ do not reach the bus when they are presented (R131, R140). -/
theorem Effect.bus_eq_of_accept (h : Effect s i t) (hi : i = .init ∨ i = .read) :
    t.busReq = s.busReq ∧ t.busIn = s.busIn ∧ t.trace = s.trace ∧ t.draws = s.draws := by
  have hno : i.isTransaction = false := by rcases hi with rfl | rfl <;> rfl
  cases h with
  | waits _ _ _ ht | failed _ _ _ _ ht => simp [hno] at ht
  | softResetSent | initCfgSent | triggerSent | statusToCheck | pollClear | pollTimeout | pollAgain | frameStored =>
    cases hno
  | decoded => simp at hi
  | _ => exact ⟨rfl, rfl, rfl, rfl⟩

/-- Settles O55, register by register. -/
theorem registersHaveOnlyTheirWriters : Obligations.RegistersHaveOnlyTheirWriters := by
  intro i s t hexec
  have h := Effect.of_exec hexec
  have hconst := h.constants_eq
  simp only [State.constants, Prod.mk.injEq] at hconst
  exact ⟨hconst, h.inputs_eq, h.eq_of_answers, h.dstate_eq_or.resolve_left, h.phase_eq_or.resolve_left,
    h.err_eq_or.resolve_left, h.busReq_eq_or.resolve_left, h.status_eq_or.resolve_left, h.frame_eq_or.resolve_left,
    fun hne => (h.reading_eq_or_decoded.resolve_left (by tauto)).1, h.rdValid_eq_or.resolve_left, h.pollCnt_eq_or.resolve_left,
    h.bus_eq_of_accept, h.busIn_eq_or.resolve_left⟩

end Sys2Proof.Machine
end
